-- ==== Sys2Proof/Word.lean ====
section
/-! DEFINITION. The bit widths of the machine (spec/00_scope.md R5, R8): every value is an unsigned bit vector. -/

namespace Sys2Proof

/-- XLEN = 8: a general register, a byte of Memory, a timer, the immediate kk (R5). -/
abbrev Byte := BitVec 8

/-- OPLEN = ILEN = PCLEN = 16: an instruction word, the index register, the pc, a stack slot (R5). -/
abbrev Word := BitVec 16

/-- Four bits of an instruction word: b0, b1, b2, b3 and the operands x, y, n (R8, R72). -/
abbrev Nibble := BitVec 4

/-- The 12-bit address operand nnn (R72). -/
abbrev Addr12 := BitVec 12

end Sys2Proof
end

