-- ==== Sys2Proof/Syntax.lean ====
section
/-! DEFINITION. The instruction set as data: one constructor per row of spec/opcode_table.json (R74). -/

namespace Sys2Proof

/-- An instruction: its identifier (R74) with its operands (R72): x = b1, y = b2, n = b3, kk = op[7:0], nnn = op[11:0].
A nibble the decoder does not inspect (R75: b1 under major 0, b3 under majors 5 and 9) is kept as a last or first argument
`b1`, `b3`, because the handler is given the raw opcode (R200 phase 5) and a fault records it (R203);
see notes/assumptions/7.md. -/
inductive Instr where
  /-- 0-Cn, R181 -/
  | scd (b1 n : Nibble)
  /-- 0-E0, R161 -/
  | cls (b1 : Nibble)
  /-- 0-EE, R132 -/
  | ret (b1 : Nibble)
  /-- 0-FB, R182 -/
  | scr (b1 : Nibble)
  /-- 0-FC, R183 -/
  | scl (b1 : Nibble)
  /-- 0-FE, R184 -/
  | low (b1 : Nibble)
  /-- 0-FF, R185 -/
  | high (b1 : Nibble)
  /-- 1nnn, R130 -/
  | jp (nnn : Addr12)
  /-- 2nnn, R131 -/
  | call (nnn : Addr12)
  /-- 3xkk, R101 -/
  | seVxKk (x : Nibble) (kk : Byte)
  /-- 4xkk, R102 -/
  | sneVxKk (x : Nibble) (kk : Byte)
  /-- 5xy-, R103 -/
  | seVxVy (x y b3 : Nibble)
  /-- 6xkk, R111 -/
  | ldVxKk (x : Nibble) (kk : Byte)
  /-- 7xkk, R112 -/
  | addVxKk (x : Nibble) (kk : Byte)
  /-- 8xy0, R113 -/
  | ldVxVy (x y : Nibble)
  /-- 8xy1, R114 -/
  | orVxVy (x y : Nibble)
  /-- 8xy2, R115 -/
  | andVxVy (x y : Nibble)
  /-- 8xy3, R116 -/
  | xorVxVy (x y : Nibble)
  /-- 8xy4, R117 -/
  | addVxVy (x y : Nibble)
  /-- 8xy5, R118 -/
  | subVxVy (x y : Nibble)
  /-- 8xy6, R119; y is decoded and unused (R75) -/
  | shr (x y : Nibble)
  /-- 8xy7, R120 -/
  | subnVxVy (x y : Nibble)
  /-- 8xyE, R121; y is decoded and unused (R75) -/
  | shl (x y : Nibble)
  /-- 9xy-, R104 -/
  | sneVxVy (x y b3 : Nibble)
  /-- Annn, R150 -/
  | ldI (nnn : Addr12)
  /-- Bnnn, R133 -/
  | jpV0 (nnn : Addr12)
  /-- Cxkk, R123 -/
  | rnd (x : Nibble) (kk : Byte)
  /-- Dxy0, R186 -/
  | drwExt (x y : Nibble)
  /-- Dxyn with n from 1 to 15, R162 -/
  | drw (x y n : Nibble)
  /-- Ex9E, R140 -/
  | skp (x : Nibble)
  /-- ExA1, R141 -/
  | sknp (x : Nibble)
  /-- Fx07, R142 -/
  | ldVxDt (x : Nibble)
  /-- Fx0A, R187 -/
  | ldVxK (x : Nibble)
  /-- Fx15, R143 -/
  | ldDtVx (x : Nibble)
  /-- Fx18, R144 -/
  | ldStVx (x : Nibble)
  /-- Fx1E, R151 -/
  | addIVx (x : Nibble)
  /-- Fx29, R152 -/
  | ldFVx (x : Nibble)
  /-- Fx30, R188 -/
  | ldHfVx (x : Nibble)
  /-- Fx33, R153 -/
  | ldBVx (x : Nibble)
  /-- Fx55, R154 -/
  | ldMiVx (x : Nibble)
  /-- Fx65, R155 -/
  | ldVxMi (x : Nibble)
  /-- every word no other row matches, R189; the word itself is kept -/
  | unknown (op : Word)
  deriving DecidableEq, Repr

end Sys2Proof
end

