-- ==== Sys2Proof/WellFormed.lean ====
section
/-! DEFINITION. The opcode table (spec/30_encoding.md R74, R78; spec/opcode_table.json), read apart from the decode
procedure of R73, and which instruction terms stand for an encoding. -/

namespace Sys2Proof

/-- The 42 instruction identifiers `decode` can return (R74). -/
inductive InstrId where
  | scd | cls | ret | scr | scl | low | high | jp | call | seVxKk | sneVxKk | seVxVy | ldVxKk | addVxKk
  | ldVxVy | orVxVy | andVxVy | xorVxVy | addVxVy | subVxVy | shr | subnVxVy | shl | sneVxVy | ldI | jpV0
  | rnd | drwExt | drw | skp | sknp | ldVxDt | ldVxK | ldDtVx | ldStVx | addIVx | ldFVx | ldHfVx | ldBVx
  | ldMiVx | ldVxMi | unknown
  deriving DecidableEq, Repr

/-- The identifier of an instruction, without its operands. -/
def Instr.id : Instr → InstrId
  | .scd _ _ => .scd
  | .cls _ => .cls
  | .ret _ => .ret
  | .scr _ => .scr
  | .scl _ => .scl
  | .low _ => .low
  | .high _ => .high
  | .jp _ => .jp
  | .call _ => .call
  | .seVxKk _ _ => .seVxKk
  | .sneVxKk _ _ => .sneVxKk
  | .seVxVy _ _ _ => .seVxVy
  | .ldVxKk _ _ => .ldVxKk
  | .addVxKk _ _ => .addVxKk
  | .ldVxVy _ _ => .ldVxVy
  | .orVxVy _ _ => .orVxVy
  | .andVxVy _ _ => .andVxVy
  | .xorVxVy _ _ => .xorVxVy
  | .addVxVy _ _ => .addVxVy
  | .subVxVy _ _ => .subVxVy
  | .shr _ _ => .shr
  | .subnVxVy _ _ => .subnVxVy
  | .shl _ _ => .shl
  | .sneVxVy _ _ _ => .sneVxVy
  | .ldI _ => .ldI
  | .jpV0 _ => .jpV0
  | .rnd _ _ => .rnd
  | .drwExt _ _ => .drwExt
  | .drw _ _ _ => .drw
  | .skp _ => .skp
  | .sknp _ => .sknp
  | .ldVxDt _ => .ldVxDt
  | .ldVxK _ => .ldVxK
  | .ldDtVx _ => .ldDtVx
  | .ldStVx _ => .ldStVx
  | .addIVx _ => .addIVx
  | .ldFVx _ => .ldFVx
  | .ldHfVx _ => .ldHfVx
  | .ldBVx _ => .ldBVx
  | .ldMiVx _ => .ldMiVx
  | .ldVxMi _ => .ldVxMi
  | .unknown _ => .unknown

/-- A row of the table: a word `op` matches it when `op and mask == value` (R78; `value` is the column `match`). -/
structure Row where
  id : InstrId
  mask : Word
  value : Word
  priority : Nat
  deriving DecidableEq, Repr

/-- Does a word match a row (R78)? -/
def Row.admits (r : Row) (op : Word) : Bool := op &&& r.mask == r.value

/-- The 42 rows of R74 and spec/opcode_table.json, in the table's order. -/
def opcodeRows : List Row :=
  [⟨.scd, 0xF0F0, 0x00C0, 1⟩, ⟨.cls, 0xF0FF, 0x00E0, 1⟩, ⟨.ret, 0xF0FF, 0x00EE, 1⟩] ++
  [⟨.scr, 0xF0FF, 0x00FB, 1⟩, ⟨.scl, 0xF0FF, 0x00FC, 1⟩, ⟨.low, 0xF0FF, 0x00FE, 1⟩] ++
  [⟨.high, 0xF0FF, 0x00FF, 1⟩, ⟨.jp, 0xF000, 0x1000, 1⟩, ⟨.call, 0xF000, 0x2000, 1⟩] ++
  [⟨.seVxKk, 0xF000, 0x3000, 1⟩, ⟨.sneVxKk, 0xF000, 0x4000, 1⟩, ⟨.seVxVy, 0xF000, 0x5000, 1⟩] ++
  [⟨.ldVxKk, 0xF000, 0x6000, 1⟩, ⟨.addVxKk, 0xF000, 0x7000, 1⟩, ⟨.ldVxVy, 0xF00F, 0x8000, 1⟩] ++
  [⟨.orVxVy, 0xF00F, 0x8001, 1⟩, ⟨.andVxVy, 0xF00F, 0x8002, 1⟩, ⟨.xorVxVy, 0xF00F, 0x8003, 1⟩] ++
  [⟨.addVxVy, 0xF00F, 0x8004, 1⟩, ⟨.subVxVy, 0xF00F, 0x8005, 1⟩, ⟨.shr, 0xF00F, 0x8006, 1⟩] ++
  [⟨.subnVxVy, 0xF00F, 0x8007, 1⟩, ⟨.shl, 0xF00F, 0x800E, 1⟩, ⟨.sneVxVy, 0xF000, 0x9000, 1⟩] ++
  [⟨.ldI, 0xF000, 0xA000, 1⟩, ⟨.jpV0, 0xF000, 0xB000, 1⟩, ⟨.rnd, 0xF000, 0xC000, 1⟩] ++
  [⟨.drwExt, 0xF00F, 0xD000, 1⟩, ⟨.drw, 0xF000, 0xD000, 2⟩, ⟨.skp, 0xF0FF, 0xE09E, 1⟩] ++
  [⟨.sknp, 0xF0FF, 0xE0A1, 1⟩, ⟨.ldVxDt, 0xF0FF, 0xF007, 1⟩, ⟨.ldVxK, 0xF0FF, 0xF00A, 1⟩] ++
  [⟨.ldDtVx, 0xF0FF, 0xF015, 1⟩, ⟨.ldStVx, 0xF0FF, 0xF018, 1⟩, ⟨.addIVx, 0xF0FF, 0xF01E, 1⟩] ++
  [⟨.ldFVx, 0xF0FF, 0xF029, 1⟩, ⟨.ldHfVx, 0xF0FF, 0xF030, 1⟩, ⟨.ldBVx, 0xF0FF, 0xF033, 1⟩] ++
  [⟨.ldMiVx, 0xF0FF, 0xF055, 1⟩, ⟨.ldVxMi, 0xF0FF, 0xF065, 1⟩, ⟨.unknown, 0x0000, 0x0000, 9⟩]

/-- The matching row with the lowest priority number; among equals, the first (R78). -/
def bestRow (op : Word) : List Row → Option Row
  | [] => none
  | r :: rest =>
    match bestRow op rest with
    | none => if r.admits op then some r else none
    | some q => if r.admits op && r.priority ≤ q.priority then some r else some q

/-- The identifier the table gives a word; every word matches UNKNOWN's row at least (R78). -/
def tableId (op : Word) : InstrId :=
  match bestRow op opcodeRows with
  | some r => r.id
  | none => .unknown

/-- The instruction terms that stand for an encoding: DRW has n in 1..15, since Dxy0 is DRW_EXT (R162), and UNKNOWN
holds a word no other row matches (R76). Every other term does. -/
def Instr.wf : Instr → Bool
  | .scd _ _ => true
  | .cls _ => true
  | .ret _ => true
  | .scr _ => true
  | .scl _ => true
  | .low _ => true
  | .high _ => true
  | .jp _ => true
  | .call _ => true
  | .seVxKk _ _ => true
  | .sneVxKk _ _ => true
  | .seVxVy _ _ _ => true
  | .ldVxKk _ _ => true
  | .addVxKk _ _ => true
  | .ldVxVy _ _ => true
  | .orVxVy _ _ => true
  | .andVxVy _ _ => true
  | .xorVxVy _ _ => true
  | .addVxVy _ _ => true
  | .subVxVy _ _ => true
  | .shr _ _ => true
  | .subnVxVy _ _ => true
  | .shl _ _ => true
  | .sneVxVy _ _ _ => true
  | .ldI _ => true
  | .jpV0 _ => true
  | .rnd _ _ => true
  | .drwExt _ _ => true
  | .drw _ _ n => n != 0
  | .skp _ => true
  | .sknp _ => true
  | .ldVxDt _ => true
  | .ldVxK _ => true
  | .ldDtVx _ => true
  | .ldStVx _ => true
  | .addIVx _ => true
  | .ldFVx _ => true
  | .ldHfVx _ => true
  | .ldBVx _ => true
  | .ldMiVx _ => true
  | .ldVxMi _ => true
  | .unknown op => tableId op == .unknown

end Sys2Proof
end

