-- ==== Sys2Proof/Decode.lean ====
section
/-! DEFINITION. The instruction_decoder (spec/30_encoding.md R70 to R78): operand fields, the decode procedure of R73,
decoding of any bytes, and the encoder read from the same patterns. -/

namespace Sys2Proof

/-! ### Nibbles and operand fields (R71, R72) -/

/-- b0 = op[15:12] -/
def nib0 (op : Word) : Nibble := op.extractLsb' 12 4
/-- b1 = op[11:8], the operand x -/
def nib1 (op : Word) : Nibble := op.extractLsb' 8 4
/-- b2 = op[7:4], the operand y -/
def nib2 (op : Word) : Nibble := op.extractLsb' 4 4
/-- b3 = op[3:0], the operand n -/
def nib3 (op : Word) : Nibble := op.extractLsb' 0 4
/-- op[7:0], the operand kk and the selector under majors 0xE and 0xF -/
def lowByte (op : Word) : Byte := op.extractLsb' 0 8
/-- op[15:8], the byte at the lower address (R51) -/
def highByte (op : Word) : Byte := op.extractLsb' 8 8
/-- op[11:0], the operand nnn -/
def addrField (op : Word) : Addr12 := op.extractLsb' 0 12

/-! ### The decode procedure (R73) -/

/-- R73 under b0 = 0; b1 is not inspected (decision D3, `90_conflicts.md` C3). -/
def decodeMajor0 (op : Word) : Instr :=
  if nib2 op = 0xC then .scd (nib1 op) (nib3 op)
  else if nib2 op = 0xE ∧ nib3 op = 0x0 then .cls (nib1 op)
  else if nib2 op = 0xE ∧ nib3 op = 0xE then .ret (nib1 op)
  else if nib2 op = 0xF ∧ nib3 op = 0xB then .scr (nib1 op)
  else if nib2 op = 0xF ∧ nib3 op = 0xC then .scl (nib1 op)
  else if nib2 op = 0xF ∧ nib3 op = 0xE then .low (nib1 op)
  else if nib2 op = 0xF ∧ nib3 op = 0xF then .high (nib1 op)
  else .unknown op

/-- R73 under b0 = 8. The spec supplies the selector values from general knowledge (G1): UNVERIFIED, unsafe (notes/assumptions/17.md). -/
def decodeMajor8 (op : Word) : Instr :=
  if nib3 op = 0x0 then .ldVxVy (nib1 op) (nib2 op)
  else if nib3 op = 0x1 then .orVxVy (nib1 op) (nib2 op)
  else if nib3 op = 0x2 then .andVxVy (nib1 op) (nib2 op)
  else if nib3 op = 0x3 then .xorVxVy (nib1 op) (nib2 op)
  else if nib3 op = 0x4 then .addVxVy (nib1 op) (nib2 op)
  else if nib3 op = 0x5 then .subVxVy (nib1 op) (nib2 op)
  else if nib3 op = 0x6 then .shr (nib1 op) (nib2 op)
  else if nib3 op = 0x7 then .subnVxVy (nib1 op) (nib2 op)
  else if nib3 op = 0xE then .shl (nib1 op) (nib2 op)
  else .unknown op

/-- R73 under b0 = 0xD: `Dxy0` is the stub whatever the mode (decision D13, `90_conflicts.md` C6). -/
def decodeMajorD (op : Word) : Instr :=
  if nib3 op = 0x0 then .drwExt (nib1 op) (nib2 op)
  else .drw (nib1 op) (nib2 op) (nib3 op)

/-- R73 under b0 = 0xE. -/
def decodeMajorE (op : Word) : Instr :=
  if lowByte op = 0x9E then .skp (nib1 op)
  else if lowByte op = 0xA1 then .sknp (nib1 op)
  else .unknown op

/-- R73 under b0 = 0xF. The spec supplies the selector values from general knowledge (G2): UNVERIFIED, unsafe (notes/assumptions/17.md). -/
def decodeMajorF (op : Word) : Instr :=
  if lowByte op = 0x07 then .ldVxDt (nib1 op)
  else if lowByte op = 0x0A then .ldVxK (nib1 op)
  else if lowByte op = 0x15 then .ldDtVx (nib1 op)
  else if lowByte op = 0x18 then .ldStVx (nib1 op)
  else if lowByte op = 0x1E then .addIVx (nib1 op)
  else if lowByte op = 0x29 then .ldFVx (nib1 op)
  else if lowByte op = 0x30 then .ldHfVx (nib1 op)
  else if lowByte op = 0x33 then .ldBVx (nib1 op)
  else if lowByte op = 0x55 then .ldMiVx (nib1 op)
  else if lowByte op = 0x65 then .ldVxMi (nib1 op)
  else .unknown op

/-- `decode` (R73): total, and a function of the word alone (R70). A word it names nothing for is `UNKNOWN` (R76). -/
def decode (op : Word) : Instr :=
  if nib0 op = 0x0 then decodeMajor0 op
  else if nib0 op = 0x1 then .jp (addrField op)
  else if nib0 op = 0x2 then .call (addrField op)
  else if nib0 op = 0x3 then .seVxKk (nib1 op) (lowByte op)
  else if nib0 op = 0x4 then .sneVxKk (nib1 op) (lowByte op)
  else if nib0 op = 0x5 then .seVxVy (nib1 op) (nib2 op) (nib3 op)
  else if nib0 op = 0x6 then .ldVxKk (nib1 op) (lowByte op)
  else if nib0 op = 0x7 then .addVxKk (nib1 op) (lowByte op)
  else if nib0 op = 0x8 then decodeMajor8 op
  else if nib0 op = 0x9 then .sneVxVy (nib1 op) (nib2 op) (nib3 op)
  else if nib0 op = 0xA then .ldI (addrField op)
  else if nib0 op = 0xB then .jpV0 (addrField op)
  else if nib0 op = 0xC then .rnd (nib1 op) (lowByte op)
  else if nib0 op = 0xD then decodeMajorD op
  else if nib0 op = 0xE then decodeMajorE op
  else decodeMajorF op

/-! ### Bytes (R51, R70) -/

/-- The word whose first (high) byte is `hi` and second (low) byte is `lo`: instruction words are big-endian (R51, R52). -/
def wordOfBytes (hi lo : Byte) : Word := hi ++ lo

/-- Why bytes hold no instruction: fewer than the two bytes every instruction has (R70). No word is refused (R76). -/
inductive DecodeError where
  | truncated
  deriving DecidableEq, Repr

/-- Decode the instruction at the front of any bytes; the answer holds the bytes after it. -/
def decodeBytes : List Byte → Except DecodeError (Instr × List Byte)
  | hi :: lo :: rest => .ok (decode (wordOfBytes hi lo), rest)
  | _ => .error .truncated

/-! ### The encoder (R71, R74, R79) -/

/-- Formats Z, N, XY and XYN: four nibbles, b0 highest (R71). -/
def catNibbles (b0 b1 b2 b3 : Nibble) : Word := b0 ++ b1 ++ b2 ++ b3

/-- Formats XK and X: major opcode, x, and the low byte (R71). -/
def catByte (b0 x : Nibble) (kk : Byte) : Word := b0 ++ x ++ kk

/-- Format A: major opcode and nnn (R71). -/
def catAddr (b0 : Nibble) (nnn : Addr12) : Word := b0 ++ nnn

/-- The word of an instruction, from the patterns of R74. -/
def encode : Instr → Word
  | .scd b1 n => catNibbles 0x0 b1 0xC n
  | .cls b1 => catNibbles 0x0 b1 0xE 0x0
  | .ret b1 => catNibbles 0x0 b1 0xE 0xE
  | .scr b1 => catNibbles 0x0 b1 0xF 0xB
  | .scl b1 => catNibbles 0x0 b1 0xF 0xC
  | .low b1 => catNibbles 0x0 b1 0xF 0xE
  | .high b1 => catNibbles 0x0 b1 0xF 0xF
  | .jp nnn => catAddr 0x1 nnn
  | .call nnn => catAddr 0x2 nnn
  | .seVxKk x kk => catByte 0x3 x kk
  | .sneVxKk x kk => catByte 0x4 x kk
  | .seVxVy x y b3 => catNibbles 0x5 x y b3
  | .ldVxKk x kk => catByte 0x6 x kk
  | .addVxKk x kk => catByte 0x7 x kk
  | .ldVxVy x y => catNibbles 0x8 x y 0x0
  | .orVxVy x y => catNibbles 0x8 x y 0x1
  | .andVxVy x y => catNibbles 0x8 x y 0x2
  | .xorVxVy x y => catNibbles 0x8 x y 0x3
  | .addVxVy x y => catNibbles 0x8 x y 0x4
  | .subVxVy x y => catNibbles 0x8 x y 0x5
  | .shr x y => catNibbles 0x8 x y 0x6
  | .subnVxVy x y => catNibbles 0x8 x y 0x7
  | .shl x y => catNibbles 0x8 x y 0xE
  | .sneVxVy x y b3 => catNibbles 0x9 x y b3
  | .ldI nnn => catAddr 0xA nnn
  | .jpV0 nnn => catAddr 0xB nnn
  | .rnd x kk => catByte 0xC x kk
  | .drwExt x y => catNibbles 0xD x y 0x0
  | .drw x y n => catNibbles 0xD x y n
  | .skp x => catByte 0xE x 0x9E
  | .sknp x => catByte 0xE x 0xA1
  | .ldVxDt x => catByte 0xF x 0x07
  | .ldVxK x => catByte 0xF x 0x0A
  | .ldDtVx x => catByte 0xF x 0x15
  | .ldStVx x => catByte 0xF x 0x18
  | .addIVx x => catByte 0xF x 0x1E
  | .ldFVx x => catByte 0xF x 0x29
  | .ldHfVx x => catByte 0xF x 0x30
  | .ldBVx x => catByte 0xF x 0x33
  | .ldMiVx x => catByte 0xF x 0x55
  | .ldVxMi x => catByte 0xF x 0x65
  | .unknown op => op

/-- The two bytes of an instruction in Memory order, high byte first (R51). -/
def encodeBytes (i : Instr) : List Byte := [highByte (encode i), lowByte (encode i)]

/-! ### The host's view of the decoder -/

/-- The bytes of an instruction whose bits are `w`, numbered as the opcode table numbers them, bits from `nbits` up being 0. -/
def tableBytes (nbits w : Nat) : List Byte :=
  let op : Word := BitVec.ofNat 16 (w % 2 ^ nbits)
  [highByte op, lowByte op]

/-- The instruction the decoder reads from those bytes. -/
def decodeTableWord (nbits w : Nat) : Option Instr :=
  match decodeBytes (tableBytes nbits w) with
  | .ok (i, _) => some i
  | .error _ => none

end Sys2Proof
end

