-- ==== Sys2Proof/Config.lean ====
section
/-! DEFINITION. The parameters: the fixed ones of spec/00_scope.md R5, and the open ones of R6, which are opaque
constants with no body, so that every claim holds for every value they may have. -/

namespace Sys2Proof.Config

/-- MEM_SIZE (R5): the addresses of Memory are 0x000 to 0xFFF. -/
def memSize : Nat := 0x1000

/-- ROM_BASE (R5): where a ROM image is copied to, and the reset value of pc. -/
def romBase : Nat := 0x200

/-- Rand (R6, R123; decision D5): the free 8-bit value of the k-th draw.
DESIGN CHOICE, safe (notes/assumptions/1.md): nothing constrains it. -/
opaque draw8 : Nat → Byte

/-- FONT (R6, R34, R166; decision D9): pixel (row, column) of a glyph.
DESIGN CHOICE, safe (notes/assumptions/2.md): the source gives no bit pattern, so no value is assumed. -/
opaque font : Fin 16 → Fin 5 → Fin 4 → Bool

/-- ROM_MAX (R6; decision D10): a number from 0 to 3584, otherwise open.
DESIGN CHOICE, safe (notes/assumptions/3.md). -/
opaque romMax : Fin 3585

/-- The table R166 offers as a default: a row is a nibble whose most significant bit is column 0.
UNVERIFIED (the spec marks it general knowledge; notes/assumptions/2.md): the machine never uses it, the tests do. -/
def defaultGlyphs : List (List Nibble) :=
  [[0xF, 0x9, 0x9, 0x9, 0xF], [0x2, 0x6, 0x2, 0x2, 0x7], [0xF, 0x1, 0xF, 0x8, 0xF], [0xF, 0x1, 0xF, 0x1, 0xF]] ++
  [[0x9, 0x9, 0xF, 0x1, 0x1], [0xF, 0x8, 0xF, 0x1, 0xF], [0xF, 0x8, 0xF, 0x9, 0xF], [0xF, 0x1, 0x2, 0x4, 0x4]] ++
  [[0xF, 0x9, 0xF, 0x9, 0xF], [0xF, 0x9, 0xF, 0x1, 0xF], [0xF, 0x9, 0xF, 0x9, 0x9], [0xE, 0x9, 0xE, 0x9, 0xE]] ++
  [[0xF, 0x8, 0x8, 0x8, 0xF], [0xE, 0x9, 0x9, 0x9, 0xE], [0xF, 0x8, 0xF, 0x8, 0xF], [0xF, 0x8, 0xF, 0x8, 0x8]]

/-- FONT(g, r, c) of the default table: nibble(g, r)[3 - c] (R166). -/
def defaultFont (g r c : Nat) : Bool :=
  ((defaultGlyphs.getD g []).getD r 0).getLsbD (3 - c)

end Sys2Proof.Config
end

