-- ==== Sys2Proof/Machine/State.lean ====
section
/-! DEFINITION. The architectural state (spec/10_state.md R20 to R38), all of it plain data, and its reset values (R37). -/

namespace Sys2Proof.Machine

/-- Memory `Mem` (R32): the bytes that are not 0, by address. An address with no entry holds 0, which is what Memory
holds after reset (R37). The canonical form is `Memory.wf` in Machine/Ops.lean (DESIGN CHOICE, safe; notes/assumptions/4.md). -/
abbrev Memory := List Host.Cell

/-- The display `fb` (R33): 32 rows of 64 pixels, each 0 (`false`) or 1 (`true`) (DESIGN CHOICE, safe;
notes/assumptions/9.md, 19.md). -/
abbrev Framebuffer := Vector (Vector Bool 64) 32

/-- The codes of R203, in their order, 0 to 7. -/
inductive FaultCode where
  /-- 0: no fault since `Reset` -/
  | none
  /-- 1: pc > 0xFFE at fetch (R51) -/
  | fetchOob
  /-- 2: a Memory read above 0xFFF, DRW in standard mode or Fx65 -/
  | memReadOob
  /-- 3: a Memory write above 0xFFF, Fx33 or Fx55 -/
  | memWriteOob
  /-- 4: CALL with sp = 16 -/
  | stackOverflow
  /-- 5: RET with sp = 0 -/
  | stackUnderflow
  /-- 6: SKP or SKNP with V[x] > 15 -/
  | keyIndexOob
  /-- 7: DRW in font mode with I > 15 -/
  | glyphIndexOob
  deriving DecidableEq, Repr

/-- The number R203 gives a code. -/
def FaultCode.number : FaultCode → Nat
  | .none => 0
  | .fetchOob => 1
  | .memReadOob => 2
  | .memWriteOob => 3
  | .stackOverflow => 4
  | .stackUnderflow => 5
  | .keyIndexOob => 6
  | .glyphIndexOob => 7

/-- The fault record `fault` (R36). -/
structure FaultRecord where
  code : FaultCode
  pc : Word
  opcode : Word
  addr : BitVec 17
  deriving DecidableEq, Repr

/-- No fault: all four fields 0 (R36, R37). -/
def FaultRecord.clear : FaultRecord := { code := .none, pc := 0, opcode := 0, addr := 0 }

/-- Everything the spec gives the machine (R20 to R36), and the model's own counter of draws. -/
structure State where
  /-- V0 to VF (R20); VF = V[15] is the flag register (R21) -/
  v : Vector Byte 16
  /-- the index register I (R23) -/
  i : Word
  /-- the program counter (R24) -/
  pc : Word
  /-- the call-stack slots (R26) -/
  stack : Vector Word 16
  /-- how many return addresses are held, 0 to 16 (R26) -/
  sp : Fin 17
  /-- the delay timer DT (R28) -/
  dt : Byte
  /-- the sound timer ST (R29) -/
  st : Byte
  /-- the key-state slots: `true` is held down (R30) -/
  key : Vector Bool 16
  /-- the mode flag: `true` is font mode (R31) -/
  drawFont : Bool
  /-- Memory (R32) -/
  mem : Memory
  /-- the framebuffer (R33) -/
  fb : Framebuffer
  /-- the fault record (R36) -/
  fault : FaultRecord
  /-- the MODEL's own: how many draws RND has taken; it stands for the hidden `rng` (R35, notes/assumptions/1.md) -/
  draws : Nat
  deriving DecidableEq, Repr

/-- The state right after reset (R37, R230). `draws := 0` is the model's (DESIGN CHOICE, safe; notes/assumptions/1.md). -/
def State.reset : State where
  v := Vector.replicate 16 0
  i := 0
  pc := 0x200
  stack := Vector.replicate 16 0
  sp := 0
  dt := 0
  st := 0
  key := Vector.replicate 16 false
  drawFont := false
  mem := []
  fb := Vector.replicate 32 (Vector.replicate 64 false)
  fault := FaultRecord.clear
  draws := 0

/-- Why a step has no next state: never. The spec's faults (R202 to R205) are states of the machine, which a step
reaches and then stays in, so no constructor is needed and nobody raises one (safe; notes/assumptions/6.md). -/
inductive Fault where
  deriving DecidableEq, Repr

/-- Why the model gives an instruction no meaning. -/
inductive Refusal where
  /-- Raised by an arm of `exec` whose instruction has no meaning yet; safe. No arm does: every instruction has one. -/
  | notModelled (mnemonic : String)
  deriving DecidableEq, Repr

/-- What an instruction answers. -/
abbrev Result := Host.Outcome State Fault Refusal

end Sys2Proof.Machine
end

