-- ==== Sys2Proof/Machine/Ops.lean ====
section
/-! DEFINITION. The named operations over memory, registers, stack and timers, raising a fault, and fetching
(spec/00_scope.md R9, R10; spec/20_memory.md; spec/60_exceptions.md R200 to R204). -/

namespace Sys2Proof.Machine

/-! ### Memory (R32, R55, R58) -/

/-- The byte at an address: an address with no entry holds 0, its reset value (R37, R58). -/
def Memory.read : Memory → Nat → Byte
  | [], _ => 0
  | (b, w) :: rest, a => if a = b then w else Memory.read rest a

/-- Put a byte that is not 0 at its place in a list sorted by address. -/
def Memory.insert : Memory → Nat → Byte → Memory
  | [], a, w => [(a, w)]
  | (b, u) :: rest, a, w => if a < b then (a, w) :: (b, u) :: rest else (b, u) :: Memory.insert rest a w

/-- Write one byte (R55: it changes the addressed cell and nothing else). Writing 0 removes the entry. Past the end of
Memory nothing is written; the instructions check the range before (R54). -/
def Memory.write (m : Memory) (a : Nat) (w : Byte) : Memory :=
  if a < Config.memSize then
    let others := m.filter fun c => c.1 != a
    if w = 0 then others else Memory.insert others a w
  else m

/-- Write bytes at ascending addresses from `a` (R55). -/
def Memory.writeBytes (m : Memory) (a : Nat) : List Byte → Memory
  | [] => m
  | w :: rest => Memory.writeBytes (m.write a w) (a + 1) rest

/-- The canonical form: addresses strictly rising, inside 0x000..0xFFF (R32), and no entry that holds 0. -/
abbrev Memory.wf (m : Memory) : Prop :=
  m.Pairwise (fun c d => c.1 < d.1) ∧ ∀ c ∈ m, c.1 < Config.memSize ∧ c.2 ≠ 0

/-! ### Registers -/

/-- V[x] (R20) -/
def State.reg (s : State) (x : Nibble) : Byte := s.v[x.toNat]'x.isLt

/-- V[x] <- b (R20); no register is hardwired -/
def State.setReg (s : State) (x : Nibble) (b : Byte) : State := { s with v := s.v.set x.toNat b x.isLt }

/-- The number of VF, V[15] (R20) -/
def vf : Nibble := 0xF

/-- pc <- target -/
def State.setPc (s : State) (target : Word) : State := { s with pc := target }

/-- pc <- (pc + 2) mod 65536 (R24, R25) -/
def State.advance (s : State) : State := s.setPc (s.pc + 2)

/-- pc <- pc + 4 if the condition holds, else pc + 2 (R24, R100) -/
def State.skipIf (s : State) (c : Bool) : State := s.setPc (if c then s.pc + 4 else s.pc + 2)

/-- I <- w (R23) -/
def State.setI (s : State) (w : Word) : State := { s with i := w }

/-- draw_font <- b (R31) -/
def State.setDrawFont (s : State) (b : Bool) : State := { s with drawFont := b }

/-- DT <- b (R28) -/
def State.setDt (s : State) (b : Byte) : State := { s with dt := b }

/-- ST <- b (R29) -/
def State.setSt (s : State) (b : Byte) : State := { s with st := b }

/-- key[k] (R30) -/
def State.keyAt (s : State) (k : Nibble) : Bool := s.key[k.toNat]'k.isLt

/-- key[k] <- pressed (R211) -/
def State.setKey (s : State) (k : Nibble) (pressed : Bool) : State := { s with key := s.key.set k.toNat pressed k.isLt }

/-- The display replaced by another -/
def State.setFb (s : State) (fb : Framebuffer) : State := { s with fb := fb }

/-- MemWrite(a, 1, w) (R9), the range having been checked (R54) -/
def State.writeByte (s : State) (a : Nat) (w : Byte) : State := { s with mem := s.mem.write a w }

/-- Draw8() (R9, R123): the next free value, and the state that has taken it (notes/assumptions/1.md) -/
def State.draw8 (s : State) : Byte × State := (Config.draw8 s.draws, { s with draws := s.draws + 1 })

/-! ### The call stack (R26, R27) -/

/-- stack[sp] <- value; sp <- sp + 1 (R27). With sp = 16 nothing happens; CALL checks that before (R131). -/
def State.push (s : State) (value : Word) : State :=
  if h : s.sp.val < 16 then
    { s with stack := s.stack.set s.sp.val value h, sp := ⟨s.sp.val + 1, by omega⟩ }
  else s

/-- sp <- sp - 1; value <- stack[sp] (R27). The slot keeps its content. RET checks sp ≠ 0 before (R132). -/
def State.pop (s : State) : Word × State :=
  have h : s.sp.val - 1 < 16 := by omega
  (s.stack[s.sp.val - 1], { s with sp := ⟨s.sp.val - 1, by omega⟩ })

/-! ### Raising a fault (R10, R203, R204) -/

/-- `raise`: the fault record takes the code, the pc and opcode of the faulting instruction and the offending address or
index; nothing else changes, and pc stays at the instruction (R10, R36, R204). The only way back is `Reset`
(R207, Machine/HostOps.lean). -/
def raise (code : FaultCode) (opcode : Word) (addr : Nat) (s : State) : Result :=
  .next { s with fault := { code := code, pc := s.pc, opcode := opcode, addr := BitVec.ofNat 17 addr } }

/-- The block is faulted when `code != 0` (R36). -/
def State.faulted (s : State) : Bool := s.fault.code != .none

/-! ### Phases 1 and 2 of a step (R200) -/

/-- One timer's decrement: by 1 if it is above 0 (R28, R29) -/
def countDown (t : Byte) : Byte := if t = 0 then 0 else t - 1

/-- Phase 1: both timers, independently (R145, R200) -/
def State.tick (s : State) : State := { s with dt := countDown s.dt, st := countDown s.st }

/-- Phase 2: the big-endian word at pc and pc + 1, none if pc > 0xFFE (R51) -/
def State.fetch (s : State) : Option Word :=
  if s.pc.toNat > 0xFFE then none
  else some (wordOfBytes (s.mem.read s.pc.toNat) (s.mem.read (s.pc.toNat + 1)))

end Sys2Proof.Machine
end

