-- ==== Sys2Proof/Machine/Flags.lean ====
section
/-! DEFINITION. The flag computations (spec/10_state.md R21, R22; spec/41_alu.md R122) and the order of the two writes. -/

namespace Sys2Proof.Machine

/-- The value VF takes: 0 or 1 (R21, R22) -/
def flagByte (f : Bool) : Byte := if f then 1 else 0

/-- VF <- flag -/
def State.setFlag (s : State) (f : Bool) : State := s.setReg vf (flagByte f)

/-- V[x] <- result, then VF <- flag: the flag is written last, so with x = 0xF it is what VF ends with (R21, R110) -/
def State.setRegFlag (s : State) (x : Nibble) (result : Byte) (f : Bool) : State := (s.setReg x result).setFlag f

/-- The carry: 1 exactly when a + b > 255 (R122) -/
def carry (a b : Byte) : Bool := decide (a.toNat + b.toNat > 255)

/-- The no-borrow flag: 1 exactly when the minuend is strictly greater (R122) -/
def noBorrow (minuend subtrahend : Byte) : Bool := decide (minuend.toNat > subtrahend.toNat)

/-- a[0], the bit a right shift drops (R119) -/
def shiftedOutRight (a : Byte) : Bool := a.getLsbD 0

/-- a[7], the bit a left shift drops (R121) -/
def shiftedOutLeft (a : Byte) : Bool := a.getLsbD 7

end Sys2Proof.Machine
end

