-- ==== Sys2Proof/Machine/Alu.lean ====
section
/-! DEFINITION. The alu_with_flags (spec/41_alu.md R110 to R123): operands first, then V[x], then VF, then pc. -/

namespace Sys2Proof.Machine

/-- LD_VX_KK (R111) -/
def execLdVxKk (x : Nibble) (kk : Byte) (s : State) : Result := .next (s.setReg x kk).advance

/-- ADD_VX_KK (R112): 8-bit truncation, no flag -/
def execAddVxKk (x : Nibble) (kk : Byte) (s : State) : Result := .next (s.setReg x (s.reg x + kk)).advance

/-- LD_VX_VY (R113) -/
def execLdVxVy (x y : Nibble) (s : State) : Result := .next (s.setReg x (s.reg y)).advance

/-- OR (R114): VF left as it was -/
def execOrVxVy (x y : Nibble) (s : State) : Result := .next (s.setReg x (s.reg x ||| s.reg y)).advance

/-- AND (R115) -/
def execAndVxVy (x y : Nibble) (s : State) : Result := .next (s.setReg x (s.reg x &&& s.reg y)).advance

/-- XOR (R116) -/
def execXorVxVy (x y : Nibble) (s : State) : Result := .next (s.setReg x (s.reg x ^^^ s.reg y)).advance

/-- ADD_VX_VY (R117) -/
def execAddVxVy (x y : Nibble) (s : State) : Result :=
  .next (s.setRegFlag x (s.reg x + s.reg y) (carry (s.reg x) (s.reg y))).advance

/-- SUB (R118) -/
def execSubVxVy (x y : Nibble) (s : State) : Result :=
  .next (s.setRegFlag x (s.reg x - s.reg y) (noBorrow (s.reg x) (s.reg y))).advance

/-- SHR (R119): V[x] in place, y ignored (decision D4) -/
def execShr (x : Nibble) (s : State) : Result :=
  .next (s.setRegFlag x (s.reg x >>> 1) (shiftedOutRight (s.reg x))).advance

/-- SUBN (R120) -/
def execSubnVxVy (x y : Nibble) (s : State) : Result :=
  .next (s.setRegFlag x (s.reg y - s.reg x) (noBorrow (s.reg y) (s.reg x))).advance

/-- SHL (R121): V[x] in place, y ignored (decision D4) -/
def execShl (x : Nibble) (s : State) : Result :=
  .next (s.setRegFlag x (s.reg x <<< 1) (shiftedOutLeft (s.reg x))).advance

/-- RND (R123): a free value; kk has no stated influence (decision D5) -/
def execRnd (x : Nibble) (s : State) : Result := .next (s.draw8.2.setReg x s.draw8.1).advance

end Sys2Proof.Machine
end

