-- ==== Sys2Proof/Machine/Control.lean ====
section
/-! DEFINITION. Jumps, calls and returns (spec/42_control_transfer.md R130 to R134). -/

namespace Sys2Proof.Machine

/-- JP (R130) -/
def execJp (nnn : Addr12) (s : State) : Result := .next (s.setPc (nnn.zeroExtend 16))

/-- CALL (R131) -/
def execCall (nnn : Addr12) (s : State) : Result :=
  if s.sp.val = 16 then raise .stackOverflow (encode (.call nnn)) s.sp.val s
  else .next ((s.push (s.pc + 2)).setPc (nnn.zeroExtend 16))

/-- RET (R132); b1, not inspected, is part of the opcode a fault records (R75, R203) -/
def execRet (b1 : Nibble) (s : State) : Result :=
  if s.sp.val = 0 then raise .stackUnderflow (encode (.ret b1)) s.sp.val s
  else .next (s.pop.2.setPc s.pop.1)

/-- JP_V0 (R133): the sum is not reduced to 12 bits -/
def execJpV0 (nnn : Addr12) (s : State) : Result := .next (s.setPc (nnn.zeroExtend 16 + (s.reg 0).zeroExtend 16))

end Sys2Proof.Machine
end

