-- ==== Sys2Proof/Machine/Operands.lean ====
section
/-! DEFINITION. The one addressing mode, register-indirect through I with an ascending byte offset
(spec/44_index_memory.md R156), its range check (spec/20_memory.md R54), and the sequences that use it. -/

namespace Sys2Proof.Machine

/-- EA_k = I + k, on unbounded naturals (R156, R54) -/
def State.ea (s : State) (k : Nat) : Nat := s.i.toNat + k

/-- Of the bytes I, I + 1, .., I + count - 1, the lowest address above 0xFFF, if the highest is (R54, R203):
max(I, 0x1000). No byte, no offence. -/
def State.oob (s : State) (count : Nat) : Option Nat :=
  if count ≥ 1 ∧ s.i.toNat + count - 1 > 0xFFF then some (max s.i.toNat 0x1000) else none

/-- for k in 0 .. count - 1 (ascending): MemWrite(I + k, 1, V[k]) (R154) -/
def State.storeRegs (s : State) : Nat → State
  | 0 => s
  | k + 1 => (s.storeRegs k).writeByte (s.ea k) (s.reg (BitVec.ofNat 4 k))

/-- for k in 0 .. count - 1 (ascending): V[k] <- MemRead(I + k, 1) (R155) -/
def State.loadRegs (s : State) : Nat → State
  | 0 => s
  | k + 1 => (s.loadRegs k).setReg (BitVec.ofNat 4 k) (s.mem.read (s.ea k))

/-- (a div 100) mod 100, the verbatim hundreds digit (R153, `90_conflicts.md` C4) -/
def bcdHundreds (a : Byte) : Byte := BitVec.ofNat 8 (a.toNat / 100 % 100)

/-- (a div 10) mod 10 (R153, decision D6) -/
def bcdTens (a : Byte) : Byte := BitVec.ofNat 8 (a.toNat / 10 % 10)

/-- a mod 10 (R153, decision D6) -/
def bcdOnes (a : Byte) : Byte := BitVec.ofNat 8 (a.toNat % 10)

/-- The key number a register's value names, the whole 8 bits being the index (R140): none above 15 -/
def keyIndex (a : Byte) : Option Nibble := if a.toNat > 15 then none else some (BitVec.ofNat 4 a.toNat)

/-- The glyph number the whole of I names (R164): none above 15 -/
def glyphIndex (i : Word) : Option (Fin 16) := if i.toNat > 15 then none else some (Fin.ofNat 16 i.toNat)

/-- bit c of a sprite row byte, bit 7 being the leftmost pixel (R52, R163) -/
def spriteBit (row : Byte) (c : Nat) : Bool := row.getLsbD (7 - c)

/-- FONT(g, r, c) (R6, R164) -/
def glyphBit (g : Fin 16) (r c : Nat) : Bool := Config.font g (Fin.ofNat 5 r) (Fin.ofNat 4 c)

end Sys2Proof.Machine
end

