-- ==== Sys2Proof/Machine/Display.lean ====
section
/-! DEFINITION. The sprite_xor_blit_engine (spec/45_display.md R160 to R166): clear, standard draw, font draw. -/

namespace Sys2Proof.Machine

/-- fb[x, y]: x is the column, y the row (R33) -/
def Framebuffer.pixel (fb : Framebuffer) (x : Fin 64) (y : Fin 32) : Bool := fb[y][x]

/-- fb[x, y] <- b -/
def Framebuffer.setPixel (fb : Framebuffer) (x : Fin 64) (y : Fin 32) (b : Bool) : Framebuffer :=
  fb.set y (fb[y].set x b)

/-- All cells 0 (R161) -/
def Framebuffer.blank : Framebuffer := Vector.replicate 32 (Vector.replicate 64 false)

/-- Plot (R160): the display after it, and whether both the old and the new bit were 1. `Fin.ofNat m` reduces modulo m. -/
def plot (px0 py0 : Byte) (c r : Nat) (bit : Bool) (fb : Framebuffer) : Framebuffer × Bool :=
  let px := Fin.ofNat 64 (px0.toNat + c)
  let py := Fin.ofNat 32 (py0.toNat + r)
  let old := fb.pixel px py
  (fb.setPixel px py (old ^^ bit), old && bit)

/-- Plot columns 0 .. w - 1 of one row of a sprite, in that order; was there a collision? -/
def plotRow (px0 py0 : Byte) (r : Nat) (bits : Nat → Bool) : Nat → Framebuffer → Framebuffer × Bool
  | 0, fb => (fb, false)
  | w + 1, fb =>
    let before := plotRow px0 py0 r bits w fb
    let now := plot px0 py0 w r (bits w) before.1
    (now.1, before.2 || now.2)

/-- Plot rows 0 .. h - 1 of a sprite w columns wide whose bit at row r and column c is `bits r c`, in that order. -/
def plotRows (px0 py0 : Byte) (w : Nat) (bits : Nat → Nat → Bool) : Nat → Framebuffer → Framebuffer × Bool
  | 0, fb => (fb, false)
  | h + 1, fb =>
    let before := plotRows px0 py0 w bits h fb
    let now := plotRow px0 py0 h (bits h) w before.1
    (now.1, before.2 || now.2)

/-- Draw a sprite, then VF <- collision, then advance pc (R162): the tail both draws share. -/
def State.drawSprite (s : State) (px0 py0 : Byte) (w h : Nat) (bits : Nat → Nat → Bool) : State :=
  let drawn := plotRows px0 py0 w bits h s.fb
  ((s.setFb drawn.1).setFlag drawn.2).advance

/-- The bit of the standard sprite at I: row r is the byte at I + r (R163) -/
def State.spriteBits (s : State) (r c : Nat) : Bool := spriteBit (s.mem.read (s.ea r)) c

/-- CLS (R161) -/
def execCls (s : State) : Result := .next (s.setFb Framebuffer.blank).advance

/-- StandardDraw (R163) -/
def standardDraw (op : Word) (px0 py0 : Byte) (n : Nat) (s : State) : Result :=
  match s.oob n with
  | some a => raise .memReadOob op a s
  | none => .next (s.drawSprite px0 py0 8 n s.spriteBits)

/-- FontDraw (R164) -/
def fontDraw (op : Word) (px0 py0 : Byte) (s : State) : Result :=
  match glyphIndex s.i with
  | none => raise .glyphIndexOob op s.i.toNat s
  | some g => .next (s.drawSprite px0 py0 4 5 (glyphBit g))

/-- DRW (R162): the mode flag at the time it executes selects the draw, and is not changed. -/
def execDrw (x y n : Nibble) (s : State) : Result :=
  if s.drawFont then fontDraw (encode (.drw x y n)) (s.reg x) (s.reg y) s
  else standardDraw (encode (.drw x y n)) (s.reg x) (s.reg y) n.toNat s

end Sys2Proof.Machine
end

