-- ==== Sys2Proof/Machine/IndexMemory.lean ====
section
/-! DEFINITION. The index register and memory transfers (spec/44_index_memory.md R150 to R156): I is never a side effect. -/

namespace Sys2Proof.Machine

/-- LD_I (R150) -/
def execLdI (nnn : Addr12) (s : State) : Result := .next ((s.setI (nnn.zeroExtend 16)).setDrawFont false).advance

/-- ADD_I_VX (R151): mod 65536, no flag, draw_font kept -/
def execAddIVx (x : Nibble) (s : State) : Result := .next (s.setI (s.i + (s.reg x).zeroExtend 16)).advance

/-- LD_F_VX (R152): the whole 8-bit value (decision D18) -/
def execLdFVx (x : Nibble) (s : State) : Result :=
  .next ((s.setI ((s.reg x).zeroExtend 16)).setDrawFont true).advance

/-- LD_B_VX (R153) -/
def execLdBVx (x : Nibble) (s : State) : Result :=
  match s.oob 3 with
  | some a => raise .memWriteOob (encode (.ldBVx x)) a s
  | none =>
    .next (((s.writeByte (s.ea 0) (bcdHundreds (s.reg x))).writeByte (s.ea 1) (bcdTens (s.reg x))).writeByte (s.ea 2)
      (bcdOnes (s.reg x))).advance

/-- LD_MI_VX (R154): V0 to V(x-1) -/
def execLdMiVx (x : Nibble) (s : State) : Result :=
  match s.oob x.toNat with
  | some a => raise .memWriteOob (encode (.ldMiVx x)) a s
  | none => .next (s.storeRegs x.toNat).advance

/-- LD_VX_MI (R155): V0 to V(x-1) -/
def execLdVxMi (x : Nibble) (s : State) : Result :=
  match s.oob x.toNat with
  | some a => raise .memReadOob (encode (.ldVxMi x)) a s
  | none => .next (s.loadRegs x.toNat).advance

end Sys2Proof.Machine
end

