-- ==== Sys2Proof/Machine/KeyTimer.lean ====
section
/-! DEFINITION. Key skips and timer access (spec/43_key_timer.md R140 to R145). -/

namespace Sys2Proof.Machine

/-- SKP (R140) -/
def execSkp (x : Nibble) (s : State) : Result :=
  match keyIndex (s.reg x) with
  | none => raise .keyIndexOob (encode (.skp x)) (s.reg x).toNat s
  | some k => .next (s.skipIf (s.keyAt k))

/-- SKNP (R141) -/
def execSknp (x : Nibble) (s : State) : Result :=
  match keyIndex (s.reg x) with
  | none => raise .keyIndexOob (encode (.sknp x)) (s.reg x).toNat s
  | some k => .next (s.skipIf (!s.keyAt k))

/-- LD_VX_DT (R142) -/
def execLdVxDt (x : Nibble) (s : State) : Result := .next (s.setReg x s.dt).advance

/-- LD_DT_VX (R143) -/
def execLdDtVx (x : Nibble) (s : State) : Result := .next (s.setDt (s.reg x)).advance

/-- LD_ST_VX (R144) -/
def execLdStVx (x : Nibble) (s : State) : Result := .next (s.setSt (s.reg x)).advance

end Sys2Proof.Machine
end

