-- ==== Sys2Proof/Machine/Skip.lean ====
section
/-! DEFINITION. Skips (spec/40_skip.md R100 to R104): pc only, none can fault. -/

namespace Sys2Proof.Machine

/-- SE_VX_KK (R101) -/
def execSeVxKk (x : Nibble) (kk : Byte) (s : State) : Result := .next (s.skipIf (s.reg x == kk))

/-- SNE_VX_KK (R102) -/
def execSneVxKk (x : Nibble) (kk : Byte) (s : State) : Result := .next (s.skipIf (s.reg x != kk))

/-- SE_VX_VY (R103) -/
def execSeVxVy (x y : Nibble) (s : State) : Result := .next (s.skipIf (s.reg x == s.reg y))

/-- SNE_VX_VY (R104) -/
def execSneVxVy (x y : Nibble) (s : State) : Result := .next (s.skipIf (s.reg x != s.reg y))

end Sys2Proof.Machine
end

