-- ==== Sys2Proof/Machine/Stubs.lean ====
section
/-! DEFINITION. Stubs and unknown words (spec/46_stubs_unknown.md R180 to R189): pc advances by 2, nothing else. -/

namespace Sys2Proof.Machine

/-- SCD (R181) -/
def execScd (s : State) : Result := .next s.advance

/-- SCR (R182) -/
def execScr (s : State) : Result := .next s.advance

/-- SCL (R183) -/
def execScl (s : State) : Result := .next s.advance

/-- LOW (R184) -/
def execLow (s : State) : Result := .next s.advance

/-- HIGH (R185) -/
def execHigh (s : State) : Result := .next s.advance

/-- DRW_EXT (R186): VF not written, nothing drawn, in either mode -/
def execDrwExt (s : State) : Result := .next s.advance

/-- LD_VX_K (R187): does not wait, reads no key, writes no register -/
def execLdVxK (s : State) : Result := .next s.advance

/-- LD_HF_VX (R188): I and draw_font kept -/
def execLdHfVx (s : State) : Result := .next s.advance

/-- UNKNOWN (R189): not a trap -/
def execUnknown (s : State) : Result := .next s.advance

end Sys2Proof.Machine
end

