-- ==== Sys2Proof/Machine/Step.lean ====
section
/-! DEFINITION. One step (spec/60_exceptions.md R200). -/

namespace Sys2Proof.Machine

/-- `Step()` (R200): nothing in the faulted state (R205); else the timers, then fetch, decode and execute. Phase 4, the
diagnostic text, is left out (R219, D23; DEDUCED, safe; notes/assumptions/13.md). -/
def step (s : State) : Host.Outcome State Fault Refusal :=
  if s.faulted then .next s
  else
    match s.tick.fetch with
    | none => raise .fetchOob 0 s.tick.pc.toNat s.tick
    | some op => exec (decode op) s.tick

/-- `s` with an instruction word stored at pc and pc + 1, where `step` fetches, high byte first (R51). It stands for the
host's `LoadRom` (notes/assumptions/12.md). -/
def State.withFetchWord (s : State) (nbits w : Nat) : State :=
  { s with mem := s.mem.writeBytes s.pc.toNat (tableBytes nbits w) }

end Sys2Proof.Machine
end

