-- ==== Sys2Proof/Machine/HostOps.lean ====
section
/-! DEFINITION. The six host operations (spec/00_scope.md R7; spec/60_exceptions.md R205, R211, R214, R215;
spec/70_reset_and_hazards.md R230 to R235, R238), each one atomic transition between two steps. -/

namespace Sys2Proof.Machine

/-- `Reset()` (R230): every piece of mutable state at its reset value, from any state. The counter of draws is kept, so
that the draws after it are fresh and no reproducibility is assumed (R35, N4; DESIGN CHOICE, safe;
notes/assumptions/1.md). -/
def State.hostReset (s : State) : State := { State.reset with draws := s.draws }

/-- What `LoadRom` is given (R7): a finite byte sequence, or the token `unreadable` -/
inductive RomImage where
  | bytes (b : List Byte)
  | unreadable
  deriving DecidableEq, Repr

/-- `LoadRom(bytes)`: the first min(len, ROM_MAX) bytes copied to Memory from 0x200 upward, and success; or failure and no
state change at all (R233, R234). -/
def State.loadRom (s : State) : RomImage → State × Bool
  | .bytes b => ({ s with mem := s.mem.writeBytes Config.romBase (b.take Config.romMax.val) }, true)
  | .unreadable => (s, false)

/-- The operations of R7, with `FaultStatus` (R215). A key number is 4 bits wide (R211, decision D11). The machine of
Machine/Core.lean takes only `Step` (DESIGN CHOICE, unsafe for runs; notes/assumptions/5.md). -/
inductive HostOp where
  | reset
  | loadRom (image : RomImage)
  | keyEvent (k : Nibble) (pressed : Bool)
  | step
  | fbRead (x : Fin 64) (y : Fin 32)
  | faultStatus
  deriving DecidableEq, Repr

/-- What an operation returns (R7, column `payload out`) -/
inductive HostReply where
  | nothing
  | loaded (success : Bool)
  | pixel (bit : Bool)
  | faultRecord (r : FaultRecord)
  deriving DecidableEq, Repr

/-- One operation, with its reply. `Step` is `step`; no operation but `Step` looks whether the block is faulted (R205). -/
def State.apply (s : State) : HostOp → Host.Outcome (State × HostReply) Fault Refusal
  | .reset => .next (s.hostReset, .nothing)
  | .loadRom image => .next ((s.loadRom image).1, .loaded (s.loadRom image).2)
  | .keyEvent k pressed => .next (s.setKey k pressed, .nothing)
  | .step =>
    match step s with
    | .next t => .next (t, .nothing)
    | .fault r => .fault r
    | .refused r => .refused r
  | .fbRead x y => .next (s, .pixel (s.fb.pixel x y))
  | .faultStatus => .next (s, .faultRecord s.fault)

/-- The operations form one total order (R7, R58): a run of the block is a list of them. -/
def State.applyAll (s : State) : List HostOp → Host.Outcome State Fault Refusal
  | [] => .next s
  | op :: rest =>
    match s.apply op with
    | .next p => p.1.applyAll rest
    | .fault r => .fault r
    | .refused r => .refused r

end Sys2Proof.Machine
end

