-- ==== Sys2Proof/Safety.lean ====
section
/-! DEFINITION. The terms claims use: a safe state, a finished program, the invariants, the fault table, and sprites. -/

namespace Sys2Proof.Machine

/-! ### Safe runs -/

/-- Not faulted: part of what any claim about a program proves (R205). -/
abbrev State.safe (s : State) : Prop := s.fault.code = .none

/-- A program has finished: pc holds the address of a 1nnn word whose nnn equals it, and the block is not faulted (R240). -/
def State.finished (s : State) : Prop :=
  s.safe ∧ ∃ nnn : Addr12, s.fetch = some (encode (.jp nnn)) ∧ s.pc = nnn.zeroExtend 16

/-! ### Invariants -/

/-- No execution brings pc near the wrap at 65536: pc is at most 0x10FE and a stack slot at most 0x1000 (R25). -/
abbrev State.pcBounded (s : State) : Prop :=
  s.pc.toNat ≤ 0x10FE ∧ ∀ j : Fin 16, s.stack[j].toNat ≤ 0x1000

/-- The fault record is all 0 while there is no fault, and afterwards holds the pc the block stopped at (R36, R203, R204). -/
abbrev State.faultRecordOk (s : State) : Prop :=
  (s.fault.code = .none → s.fault = FaultRecord.clear) ∧ (s.fault.code ≠ .none → s.fault.pc = s.pc)

/-! ### The fault table (R203) -/

/-- Codes 2 to 7 of R203: which fault an instruction raises in a state, and what `fault.addr` then records; read from the
table's columns, apart from the meanings. -/
def faultTable (s : State) : Instr → Option (FaultCode × Nat)
  | .drw _ _ n =>
    if s.drawFont then (if s.i.toNat > 15 then some (.glyphIndexOob, s.i.toNat) else none)
    else if s.i.toNat + n.toNat - 1 > 0xFFF then some (.memReadOob, max s.i.toNat 0x1000) else none
  | .ldVxMi x =>
    if x.toNat ≥ 1 ∧ s.i.toNat + x.toNat - 1 > 0xFFF then some (.memReadOob, max s.i.toNat 0x1000) else none
  | .ldBVx _ => if s.i.toNat + 2 > 0xFFF then some (.memWriteOob, max s.i.toNat 0x1000) else none
  | .ldMiVx x =>
    if x.toNat ≥ 1 ∧ s.i.toNat + x.toNat - 1 > 0xFFF then some (.memWriteOob, max s.i.toNat 0x1000) else none
  | .call _ => if s.sp.val = 16 then some (.stackOverflow, 16) else none
  | .ret _ => if s.sp.val = 0 then some (.stackUnderflow, 0) else none
  | .skp x => if (s.reg x).toNat > 15 then some (.keyIndexOob, (s.reg x).toNat) else none
  | .sknp x => if (s.reg x).toNat > 15 then some (.keyIndexOob, (s.reg x).toNat) else none
  | _ => none

/-! ### Sprites -/

/-- The column of a sprite drawn at px0 that falls on screen column x: the inverse of (px0 + c) mod 64 (R160). -/
def spriteColumn (px0 : Byte) (x : Fin 64) : Nat := (x.val + 64 - px0.toNat % 64) % 64

/-- The row of a sprite drawn at py0 that falls on screen row y: the inverse of (py0 + r) mod 32 (R160). -/
def spriteRow (py0 : Byte) (y : Fin 32) : Nat := (y.val + 32 - py0.toNat % 32) % 32

/-- The bit a standard draw of n rows at (px0, py0) puts on pixel (px, py): 0 outside its 8 columns and n rows (R163). -/
def State.standardBit (s : State) (px0 py0 : Byte) (n : Nat) (px : Fin 64) (py : Fin 32) : Bool :=
  decide (spriteColumn px0 px < 8 ∧ spriteRow py0 py < n) &&
    (s.mem.read (s.i.toNat + spriteRow py0 py)).getLsbD (7 - spriteColumn px0 px)

/-- The bit a font draw at (px0, py0) puts on pixel (px, py): 0 outside its 4 columns and 5 rows (R164). -/
def State.fontBit (s : State) (px0 py0 : Byte) (px : Fin 64) (py : Fin 32) : Bool :=
  decide (spriteColumn px0 px < 4 ∧ spriteRow py0 py < 5) &&
    Config.font (Fin.ofNat 16 s.i.toNat) (Fin.ofNat 5 (spriteRow py0 py)) (Fin.ofNat 4 (spriteColumn px0 px))

/-- The bit `Dxyn` puts on a pixel, by the mode it executes in (R162). -/
def State.drawnBit (s : State) (x y n : Nibble) (px : Fin 64) (py : Fin 32) : Bool :=
  if s.drawFont then s.fontBit (s.reg x) (s.reg y) px py
  else s.standardBit (s.reg x) (s.reg y) n.toNat px py

end Sys2Proof.Machine
end

