-- ==== Sys2Proof/Certificates/Slice0/Obligations.lean ====
section
/-! DEFINITION. The statements for the provers, from the numbered rules of spec/. How to read a frame: the equation
`{ t with v := s.v, pc := s.pc } = s` says that t is s in every field but V and pc, so that every other register, every
byte of Memory, every pixel, the stack, the timers, the keys, the mode flag and the fault record are as before. A fault
of R203 is a next state with the fault record written (R204, R205; the form is the model's, notes/assumptions/6.md). -/

open Sys2Proof Sys2Proof.Machine

/-! ### Encoding -/

/-- R71 to R74: the encoding of every well-formed instruction, with every operand at every value, decodes to it. -/
def Obligations.DecodeOfEncodeIsIdentity : Prop :=
  ∀ i : Instr, i.wf = true → decode (encode i) = i

/-- Every word decodes (R73, R76), to a well-formed instruction, and encoding what it decodes to gives the word back. That no
bit is dropped is the model's choice: the term keeps the nibbles the decoder does not inspect, and UNKNOWN its word (DESIGN
CHOICE, notes/assumptions/7.md; R75 gives such nibbles no effect, and the assembler of R79 emits 0 for them). -/
def Obligations.EncodeOfDecodeIsIdentity : Prop :=
  ∀ op : Word, encode (decode op) = op ∧ (decode op).wf = true

/-- R78: the procedure of R73 takes the matching row of the opcode table with the lowest priority number. -/
def Obligations.DecoderAgreesWithOpcodeTable : Prop :=
  ∀ op : Word, (decode op).id = tableId op

/-- Words of spec/95_test_vectors.md, at least one a family, decode to what they stand for. A sanity statement. -/
def Obligations.SpecWordsDecode : Prop :=
  decode 0x332A = .seVxKk 3 0x2A ∧ decode 0x432A = .sneVxKk 3 0x2A ∧ decode 0x512F = .seVxVy 1 2 0xF ∧
  decode 0x912A = .sneVxVy 1 2 0xA ∧ decode 0x6A7F = .ldVxKk 0xA 0x7F ∧ decode 0x7F02 = .addVxKk 0xF 2 ∧
  decode 0x8124 = .addVxVy 1 2 ∧ decode 0x8F17 = .subnVxVy 0xF 1 ∧ decode 0x810E = .shl 1 0 ∧
  decode 0xC20F = .rnd 2 0x0F ∧ decode 0x1ABC = .jp 0xABC ∧ decode 0x2300 = .call 0x300 ∧
  decode 0x01EE = .ret 1 ∧ decode 0xBFFF = .jpV0 0xFFF ∧ decode 0xE49E = .skp 4 ∧ decode 0xE4A1 = .sknp 4 ∧
  decode 0xF307 = .ldVxDt 3 ∧ decode 0xFF15 = .ldDtVx 0xF ∧ decode 0xA2F0 = .ldI 0x2F0 ∧
  decode 0xF529 = .ldFVx 5 ∧ decode 0xF333 = .ldBVx 3 ∧ decode 0xF255 = .ldMiVx 2 ∧ decode 0xF365 = .ldVxMi 3 ∧
  decode 0x07E0 = .cls 7 ∧ decode 0xD01F = .drw 0 1 0xF ∧ decode 0xD120 = .drwExt 1 2 ∧ decode 0x03C0 = .scd 3 0 ∧
  decode 0xF30A = .ldVxK 3 ∧ decode 0x0000 = .unknown 0 ∧ decode 0x8128 = .unknown 0x8128 ∧
  decode 0x00FD = .unknown 0x00FD ∧ decode 0xF175 = .unknown 0xF175

/-- R75: words that differ only in a nibble that is not inspected or not used behave identically (where a fault records the
opcode, RET on an empty stack and DRW of a glyph above 15, the record differs in that nibble). -/
def Obligations.UnusedNibblesDoNotMatter : Prop :=
  ∀ (x y n x' y' n' : Nibble) (s : State),
    exec (.cls x) s = exec (.cls x') s ∧ exec (.scd x n) s = exec (.scd x' n') s ∧
    exec (.scr x) s = exec (.scr x') s ∧ exec (.scl x) s = exec (.scl x') s ∧ exec (.low x) s = exec (.low x') s ∧
    exec (.high x) s = exec (.high x') s ∧ exec (.seVxVy x y n) s = exec (.seVxVy x y n') s ∧
    exec (.sneVxVy x y n) s = exec (.sneVxVy x y n') s ∧ exec (.shr x y) s = exec (.shr x y') s ∧
    exec (.shl x y) s = exec (.shl x y') s ∧ exec (.drwExt x y) s = exec (.drwExt x' y') s ∧
    exec (.ldVxK x) s = exec (.ldVxK x') s ∧ exec (.ldHfVx x) s = exec (.ldHfVx x') s ∧
    (s.sp ≠ 0 → exec (.ret x) s = exec (.ret x') s) ∧
    (s.drawFont = true → s.i.toNat ≤ 15 → exec (.drw x y n) s = exec (.drw x y n') s)

/-! ### The step -/

/-- R200 with R51: nothing in the faulted state; else phase 1 counts the timers down, phase 2 fetches the big-endian word
at pc and pc + 1 or raises FetchOob, phase 3 decodes it and phase 5 executes it. -/
def Obligations.StepRunsTheFetchedInstruction : Prop :=
  ∀ s : State,
    (s.fault.code ≠ .none → step s = .next s) ∧
    (s.fault.code = .none → s.pc.toNat > 0xFFE →
      step s = .next { s with
        dt := if s.dt.toNat > 0 then s.dt - 1 else s.dt
        st := if s.st.toNat > 0 then s.st - 1 else s.st
        fault := { code := .fetchOob, pc := s.pc, opcode := 0, addr := BitVec.ofNat 17 s.pc.toNat } }) ∧
    (s.fault.code = .none → s.pc.toNat ≤ 0xFFE →
      step s = exec (decode (s.mem.read s.pc.toNat ++ s.mem.read (s.pc.toNat + 1) : Word)) { s with
        dt := if s.dt.toNat > 0 then s.dt - 1 else s.dt
        st := if s.st.toNat > 0 then s.st - 1 else s.st })

/-- R76, R217: no encoding traps and no instruction stops the machine, so a step answers a next state. That a step which
raises a fault does so too, and a step of a halted block, is the model's choice (DESIGN CHOICE, notes/assumptions/6.md): R204
and R205 say what the halted block holds and does, and the model keeps it as a state. -/
def Obligations.EveryStepAnswersNextState : Prop :=
  ∀ s : State, ∃ t, step s = .next t

/-- R204: a step that raises a fault changes the timers (phase 1) and the fault record, and nothing else. -/
def Obligations.FaultsArePrecise : Prop :=
  ∀ s t : State, s.fault.code = .none → step s = .next t → t.fault.code ≠ .none →
    { t with fault := s.fault } = { s with
      dt := if s.dt.toNat > 0 then s.dt - 1 else s.dt
      st := if s.st.toNat > 0 then s.st - 1 else s.st }

/-- R203: the codes' numbers, and for a step from any state that is not faulted exactly which fault it raises and what the
record holds: pc, the opcode (0 for FetchOob) and the address or index of the table. -/
def Obligations.StepRaisesExactlyTheTableFaults : Prop :=
  ([FaultCode.none, .fetchOob, .memReadOob, .memWriteOob, .stackOverflow, .stackUnderflow, .keyIndexOob,
      .glyphIndexOob].map FaultCode.number = List.range 8) ∧
  ∀ s : State, s.fault.code = .none → ∃ t, step s = .next t ∧
    (s.pc.toNat > 0xFFE →
      t.fault = { code := .fetchOob, pc := s.pc, opcode := 0, addr := BitVec.ofNat 17 s.pc.toNat }) ∧
    (s.pc.toNat ≤ 0xFFE →
      let op : Word := s.mem.read s.pc.toNat ++ s.mem.read (s.pc.toNat + 1)
      t.fault = match faultTable s (decode op) with
        | none => s.fault
        | some (c, a) => { code := c, pc := s.pc, opcode := op, addr := BitVec.ofNat 17 a })

/-- R205, R36: once faulted, no sequence of host operations without `Reset` changes anything but the keys and Memory, which
`KeyEvent` and `LoadRom` still reach: the first fault is kept. -/
def Obligations.FaultIsKeptUntilReset : Prop :=
  ∀ (ops : List HostOp) (s t : State), s.fault.code ≠ .none → HostOp.reset ∉ ops → s.applyAll ops = .next t →
    { t with key := s.key, mem := s.mem } = s

/-! ### Invariants -/

/-- R32, R55: every step keeps Memory in its canonical form: addresses rising, below 0x1000, no entry 0 (the list form is the
model's: DESIGN CHOICE, notes/assumptions/4.md). -/
def Obligations.StepKeepsMemoryCanonical : Prop :=
  ∀ s t : State, s.mem.wf → step s = .next t → t.mem.wf

/-- R25, which the spec marks as its own inference: a step from pc at most 0x10FE and stack slots at most 0x1000 leaves them
so; pc never comes near the wrap at 65536. -/
def Obligations.StepKeepsPcBounded : Prop :=
  ∀ s t : State, s.pcBounded → step s = .next t → t.pcBounded

/-- R36, R203, R204: every step keeps the fault record all 0 while there is no fault, and at the pc where the block
stopped after one. -/
def Obligations.StepKeepsFaultRecordConsistent : Prop :=
  ∀ s t : State, s.faultRecordOk → step s = .next t → t.faultRecordOk

/-- The three invariants hold right after reset: by the values of R37 for pc, the stack and the fault record; and the memory
list is canonical, its form being the model's (DESIGN CHOICE, notes/assumptions/4.md). -/
def Obligations.ResetMeetsTheInvariants : Prop :=
  State.reset.mem.wf ∧ State.reset.pcBounded ∧ State.reset.faultRecordOk

/-- R7, R205: every host operation, from every state that meets the three invariants, reachable or not, leaves a state that
meets them: `LoadRom` of any image, `KeyEvent`, `Reset` and the reads as well as `Step`. The list form of Memory is the
model's (DESIGN CHOICE, notes/assumptions/4.md); the bounds of R25 are the spec's inference. -/
def Obligations.HostOperationsKeepTheInvariants : Prop :=
  ∀ (s : State) (op : HostOp) (p : State × HostReply), s.mem.wf → s.pcBounded → s.faultRecordOk →
    s.apply op = .next p → p.1.mem.wf ∧ p.1.pcBounded ∧ p.1.faultRecordOk

/-- R7, R25 (the spec's inference), R36: after any sequence of the host's operations from reset, whatever ROM is loaded and
whatever RND draws, the three invariants hold. The list form of Memory is the model's (DESIGN CHOICE,
notes/assumptions/4.md). -/
def Obligations.ReachableStatesMeetTheInvariants : Prop :=
  ∀ (ops : List HostOp) (t : State), State.reset.applyAll ops = .next t →
    t.mem.wf ∧ t.pcBounded ∧ t.faultRecordOk

/-! ### Who writes what -/

/-- R30: a step never writes the key state. -/
def Obligations.StepNeverWritesKeys : Prop :=
  ∀ s t : State, step s = .next t → t.key = s.key

/-- R26: no instruction but CALL writes a stack slot, and none but CALL and RET moves sp. -/
def Obligations.StackWrittenOnlyByCallAndRet : Prop :=
  ∀ (i : Instr) (s t : State), exec i s = .next t →
    ((∀ nnn, i ≠ .call nnn) → t.stack = s.stack) ∧
    ((∀ nnn, i ≠ .call nnn) → (∀ b1, i ≠ .ret b1) → t.sp = s.sp)

/-- R160: no instruction but CLS and DRW writes the framebuffer. -/
def Obligations.FramebufferWrittenOnlyByClsAndDrw : Prop :=
  ∀ (i : Instr) (s t : State), exec i s = .next t → (∀ b1, i ≠ .cls b1) → (∀ x y n, i ≠ .drw x y n) → t.fb = s.fb

/-- R50, R156: no instruction but Fx33 and Fx55 writes Memory: every address reads as before. -/
def Obligations.MemoryWrittenOnlyByStores : Prop :=
  ∀ (i : Instr) (s t : State), exec i s = .next t → (∀ x, i ≠ .ldBVx x) → (∀ x, i ≠ .ldMiVx x) →
    ∀ a, t.mem.read a = s.mem.read a

/-- R23, R31: only Annn, Fx1E and Fx29 write I, and only Annn and Fx29 the mode flag. -/
def Obligations.IndexAndModeWriters : Prop :=
  ∀ (i : Instr) (s t : State), exec i s = .next t → (∀ nnn, i ≠ .ldI nnn) → (∀ x, i ≠ .ldFVx x) →
    t.drawFont = s.drawFont ∧ ((∀ x, i ≠ .addIVx x) → t.i = s.i)

/-- R22: after a flag-defining instruction that raises no fault VF is 0 or 1; no other instruction writes VF but as its
destination register x = 0xF. -/
def Obligations.FlagRegisterWriters : Prop :=
  ∀ (i : Instr) (s t : State), exec i s = .next t →
    (match i with
    | .addVxVy _ _ | .subVxVy _ _ | .shr _ _ | .subnVxVy _ _ | .shl _ _ => t.reg 0xF = 0 ∨ t.reg 0xF = 1
    | .drw _ _ n => n ≠ 0 → faultTable s i = none → t.reg 0xF = 0 ∨ t.reg 0xF = 1
    | .ldVxKk x _ | .addVxKk x _ | .ldVxVy x _ | .orVxVy x _ | .andVxVy x _ | .xorVxVy x _ | .rnd x _ | .ldVxDt x =>
      x ≠ 0xF → t.reg 0xF = s.reg 0xF
    | _ => t.reg 0xF = s.reg 0xF)

/-- R28, R29: in every step of a block that is not faulted each timer falls by 1 if it is above 0, unless the fetched
instruction is the one that writes it. -/
def Obligations.TimersFallByOneEachStep : Prop :=
  ∀ s t : State, s.fault.code = .none → step s = .next t →
    ((∀ op x, s.fetch = some op → decode op ≠ .ldDtVx x) → t.dt.toNat = s.dt.toNat - 1) ∧
    ((∀ op x, s.fetch = some op → decode op ≠ .ldStVx x) → t.st.toNat = s.st.toNat - 1)

/-- R145: Fx15 and Fx18 leave the timer at V[x], Fx07 reads the value this step has already counted down, and after n steps
that do not write the timer it holds max(v - n, 0). -/
def Obligations.TimersInterleaveWithSteps : Prop :=
  (∀ (s : State) (op : Word) (x : Nibble), s.fault.code = .none → s.fetch = some op →
    (decode op = .ldDtVx x → ∃ t, step s = .next t ∧ t.dt = s.reg x) ∧
    (decode op = .ldStVx x → ∃ t, step s = .next t ∧ t.st = s.reg x) ∧
    (decode op = .ldVxDt x → ∃ t, step s = .next t ∧ (t.reg x).toNat = s.dt.toNat - 1)) ∧
  (∀ (f : Nat → State) (n : Nat),
    (∀ j < n, (f j).fault.code = .none ∧ step (f j) = .next (f (j + 1)) ∧
      ∀ op x, (f j).fetch = some op → decode op ≠ .ldDtVx x) → (f n).dt.toNat = (f 0).dt.toNat - n) ∧
  (∀ (f : Nat → State) (n : Nat),
    (∀ j < n, (f j).fault.code = .none ∧ step (f j) = .next (f (j + 1)) ∧
      ∀ op x, (f j).fetch = some op → decode op ≠ .ldStVx x) → (f n).st.toNat = (f 0).st.toNat - n)

/-! ### Skips -/

/-- R101, R102: the immediate skips complete in every state and write pc only. -/
def Obligations.SkipsOnImmediate : Prop :=
  ∀ (x : Nibble) (kk : Byte) (s : State),
    decode (0x3#4 ++ x ++ kk : Word) = .seVxKk x kk ∧
    exec (.seVxKk x kk) s = .next { s with pc := if s.reg x = kk then s.pc + 4 else s.pc + 2 } ∧
    decode (0x4#4 ++ x ++ kk : Word) = .sneVxKk x kk ∧
    exec (.sneVxKk x kk) s = .next { s with pc := if s.reg x ≠ kk then s.pc + 4 else s.pc + 2 }

/-- R103, R104: the register skips complete in every state, write pc only, and do not look at b3. -/
def Obligations.SkipsOnRegisters : Prop :=
  ∀ (x y b3 : Nibble) (s : State),
    decode (0x5#4 ++ x ++ y ++ b3 : Word) = .seVxVy x y b3 ∧
    exec (.seVxVy x y b3) s = .next { s with pc := if s.reg x = s.reg y then s.pc + 4 else s.pc + 2 } ∧
    decode (0x9#4 ++ x ++ y ++ b3 : Word) = .sneVxVy x y b3 ∧
    exec (.sneVxVy x y b3) s = .next { s with pc := if s.reg x ≠ s.reg y then s.pc + 4 else s.pc + 2 }

/-! ### ALU -/

/-- R111, R112: move immediate and add immediate, mod 256, with no flag: VF is written only as V[x]. -/
def Obligations.ImmediateMoveAndAdd : Prop :=
  ∀ (x : Nibble) (kk : Byte) (s : State),
    decode (0x6#4 ++ x ++ kk : Word) = .ldVxKk x kk ∧
    (∃ t, exec (.ldVxKk x kk) s = .next t ∧ (∀ r, t.reg r = if r = x then kk else s.reg r) ∧
      t.pc = s.pc + 2 ∧ { t with v := s.v, pc := s.pc } = s) ∧
    decode (0x7#4 ++ x ++ kk : Word) = .addVxKk x kk ∧
    (∃ t, exec (.addVxKk x kk) s = .next t ∧
      (∀ r, (t.reg r).toNat = if r = x then ((s.reg x).toNat + kk.toNat) % 256 else (s.reg r).toNat) ∧
      t.pc = s.pc + 2 ∧ { t with v := s.v, pc := s.pc } = s)

/-- R113 to R116: move, or, and, xor, bit by bit, with no flag. -/
def Obligations.MoveAndLogic : Prop :=
  ∀ (x y : Nibble) (s : State),
    decode (0x8#4 ++ x ++ y ++ 0x0#4 : Word) = .ldVxVy x y ∧
    (∃ t, exec (.ldVxVy x y) s = .next t ∧ (∀ r, t.reg r = if r = x then s.reg y else s.reg r) ∧
      t.pc = s.pc + 2 ∧ { t with v := s.v, pc := s.pc } = s) ∧
    decode (0x8#4 ++ x ++ y ++ 0x1#4 : Word) = .orVxVy x y ∧
    (∃ t, exec (.orVxVy x y) s = .next t ∧
      (∀ r b, (t.reg r).getLsbD b = if r = x then (s.reg x).getLsbD b || (s.reg y).getLsbD b else (s.reg r).getLsbD b) ∧
      t.pc = s.pc + 2 ∧ { t with v := s.v, pc := s.pc } = s) ∧
    decode (0x8#4 ++ x ++ y ++ 0x2#4 : Word) = .andVxVy x y ∧
    (∃ t, exec (.andVxVy x y) s = .next t ∧
      (∀ r b, (t.reg r).getLsbD b = if r = x then (s.reg x).getLsbD b && (s.reg y).getLsbD b else (s.reg r).getLsbD b) ∧
      t.pc = s.pc + 2 ∧ { t with v := s.v, pc := s.pc } = s) ∧
    decode (0x8#4 ++ x ++ y ++ 0x3#4 : Word) = .xorVxVy x y ∧
    (∃ t, exec (.xorVxVy x y) s = .next t ∧
      (∀ r b, (t.reg r).getLsbD b =
        if r = x then ((s.reg x).getLsbD b ^^ (s.reg y).getLsbD b) else (s.reg r).getLsbD b) ∧
      t.pc = s.pc + 2 ∧ { t with v := s.v, pc := s.pc } = s)

/-- R117: V[x] is the sum mod 256 and VF the carry, VF written last: with x = 0xF it holds the carry. -/
def Obligations.AddWithCarry : Prop :=
  ∀ (x y : Nibble) (s : State),
    decode (0x8#4 ++ x ++ y ++ 0x4#4 : Word) = .addVxVy x y ∧
    ∃ t, exec (.addVxVy x y) s = .next t ∧
      (∀ r, (t.reg r).toNat =
        if r = 0xF then (if (s.reg x).toNat + (s.reg y).toNat > 255 then 1 else 0)
        else if r = x then ((s.reg x).toNat + (s.reg y).toNat) % 256 else (s.reg r).toNat) ∧
      t.pc = s.pc + 2 ∧ { t with v := s.v, pc := s.pc } = s

/-- R118, R120: the difference mod 256, and VF = 1 exactly when the minuend is strictly greater, written last. -/
def Obligations.SubtractBothWays : Prop :=
  ∀ (x y : Nibble) (s : State),
    decode (0x8#4 ++ x ++ y ++ 0x5#4 : Word) = .subVxVy x y ∧
    (∃ t, exec (.subVxVy x y) s = .next t ∧
      (∀ r, ((t.reg r).toNat : Int) =
        if r = 0xF then (if (s.reg x).toNat > (s.reg y).toNat then 1 else 0)
        else if r = x then (((s.reg x).toNat : Int) - (s.reg y).toNat) % 256 else (s.reg r).toNat) ∧
      t.pc = s.pc + 2 ∧ { t with v := s.v, pc := s.pc } = s) ∧
    decode (0x8#4 ++ x ++ y ++ 0x7#4 : Word) = .subnVxVy x y ∧
    (∃ t, exec (.subnVxVy x y) s = .next t ∧
      (∀ r, ((t.reg r).toNat : Int) =
        if r = 0xF then (if (s.reg y).toNat > (s.reg x).toNat then 1 else 0)
        else if r = x then (((s.reg y).toNat : Int) - (s.reg x).toNat) % 256 else (s.reg r).toNat) ∧
      t.pc = s.pc + 2 ∧ { t with v := s.v, pc := s.pc } = s)

/-- R119, R121: one bit position, V[x] in place whatever y is (the spec's decision D4), VF the bit shifted out, written
last. -/
def Obligations.ShiftsByOne : Prop :=
  ∀ (x y : Nibble) (s : State),
    decode (0x8#4 ++ x ++ y ++ 0x6#4 : Word) = .shr x y ∧
    (∃ t, exec (.shr x y) s = .next t ∧
      (∀ r, (t.reg r).toNat =
        if r = 0xF then (s.reg x).toNat % 2 else if r = x then (s.reg x).toNat / 2 else (s.reg r).toNat) ∧
      t.pc = s.pc + 2 ∧ { t with v := s.v, pc := s.pc } = s) ∧
    decode (0x8#4 ++ x ++ y ++ 0xE#4 : Word) = .shl x y ∧
    (∃ t, exec (.shl x y) s = .next t ∧
      (∀ r, (t.reg r).toNat =
        if r = 0xF then (s.reg x).toNat / 128 else if r = x then (s.reg x).toNat * 2 % 256 else (s.reg r).toNat) ∧
      t.pc = s.pc + 2 ∧ { t with v := s.v, pc := s.pc } = s)

/-- R123 with the model's counter of draws (DESIGN CHOICE, notes/assumptions/1.md): RND puts the next free value, one for
each execution and under no law, into V[x]; kk has no influence; VF is written only as V[x]. -/
def Obligations.RandomPutsAFreeValue : Prop :=
  ∀ (x : Nibble) (kk kk' : Byte) (s : State),
    decode (0xC#4 ++ x ++ kk : Word) = .rnd x kk ∧ exec (.rnd x kk) s = exec (.rnd x kk') s ∧
    ∃ t, exec (.rnd x kk) s = .next t ∧ (∀ r, t.reg r = if r = x then Config.draw8 s.draws else s.reg r) ∧
      t.pc = s.pc + 2 ∧ t.draws = s.draws + 1 ∧ { t with v := s.v, pc := s.pc, draws := s.draws } = s

/-! ### Control transfer -/

/-- R130, R133: a jump writes pc only: nnn, or nnn + V0, not reduced to 12 bits and never wrapping. -/
def Obligations.JumpsWritePcOnly : Prop :=
  ∀ (nnn : Addr12) (s : State),
    decode (0x1#4 ++ nnn : Word) = .jp nnn ∧
    (∃ t, exec (.jp nnn) s = .next t ∧ t.pc.toNat = nnn.toNat ∧ { t with pc := s.pc } = s) ∧
    decode (0xB#4 ++ nnn : Word) = .jpV0 nnn ∧
    (∃ t, exec (.jpV0 nnn) s = .next t ∧ t.pc.toNat = nnn.toNat + (s.reg 0).toNat ∧ { t with pc := s.pc } = s)

/-- R131: CALL with room stores pc + 2 at stack[sp], increments sp and jumps; with sp = 16 it raises StackOverflow and does
nothing else. -/
def Obligations.CallPushesTheReturnAddress : Prop :=
  ∀ (nnn : Addr12) (s : State),
    decode (0x2#4 ++ nnn : Word) = .call nnn ∧
    (s.sp.val < 16 → ∃ t, exec (.call nnn) s = .next t ∧ t.pc.toNat = nnn.toNat ∧ t.sp.val = s.sp.val + 1 ∧
      (∀ j : Fin 16, t.stack[j] = if j.val = s.sp.val then s.pc + 2 else s.stack[j]) ∧
      { t with pc := s.pc, sp := s.sp, stack := s.stack } = s) ∧
    (s.sp.val = 16 → exec (.call nnn) s = .next { s with
      fault := { code := .stackOverflow, pc := s.pc, opcode := 0x2#4 ++ nnn, addr := 16 } })

/-- R132: RET with something on the stack decrements sp and jumps to the popped value, nothing being added to it; with
sp = 0 it raises StackUnderflow and does nothing else. -/
def Obligations.RetPopsTheReturnAddress : Prop :=
  ∀ (b1 : Nibble) (s : State),
    decode (0x0#4 ++ b1 ++ 0xE#4 ++ 0xE#4 : Word) = .ret b1 ∧
    (s.sp.val ≠ 0 → ∃ t, exec (.ret b1) s = .next t ∧ t.sp.val = s.sp.val - 1 ∧
      (∀ j : Fin 16, j.val = s.sp.val - 1 → t.pc = s.stack[j]) ∧ { t with pc := s.pc, sp := s.sp } = s) ∧
    (s.sp.val = 0 → exec (.ret b1) s = .next { s with
      fault := { code := .stackUnderflow, pc := s.pc, opcode := 0x0#4 ++ b1 ++ 0xE#4 ++ 0xE#4, addr := 0 } })

/-- R131, R132 together (the source's property E7): a call followed at once by a return comes back to the instruction after
the call, with sp as before the call; the slot at sp holds that address, and nothing else changed, no other slot either. -/
def Obligations.CallThenRetComesBack : Prop :=
  ∀ (nnn : Addr12) (b1 : Nibble) (s : State), s.sp.val < 16 →
    ∃ t u, exec (.call nnn) s = .next t ∧ exec (.ret b1) t = .next u ∧ u.pc = s.pc + 2 ∧ u.sp = s.sp ∧
      (∀ j : Fin 16, u.stack[j] = if j.val = s.sp.val then s.pc + 2 else s.stack[j]) ∧
      { u with pc := s.pc, stack := s.stack } = s

/-! ### Keys and timers -/

/-- R140, R141: the key skips test the slot V[x] names and write pc only; with V[x] above 15 they raise KeyIndexOob and do
nothing else. -/
def Obligations.KeySkips : Prop :=
  ∀ (x : Nibble) (s : State),
    decode (0xE#4 ++ x ++ 0x9E#8 : Word) = .skp x ∧ decode (0xE#4 ++ x ++ 0xA1#8 : Word) = .sknp x ∧
    (∀ k : Fin 16, (s.reg x).toNat = k.val →
      exec (.skp x) s = .next { s with pc := if s.key[k] = true then s.pc + 4 else s.pc + 2 } ∧
      exec (.sknp x) s = .next { s with pc := if s.key[k] = false then s.pc + 4 else s.pc + 2 }) ∧
    ((s.reg x).toNat > 15 →
      exec (.skp x) s = .next { s with fault :=
        { code := .keyIndexOob, pc := s.pc, opcode := 0xE#4 ++ x ++ 0x9E#8, addr := BitVec.ofNat 17 (s.reg x).toNat } } ∧
      exec (.sknp x) s = .next { s with fault :=
        { code := .keyIndexOob, pc := s.pc, opcode := 0xE#4 ++ x ++ 0xA1#8, addr := BitVec.ofNat 17 (s.reg x).toNat } })

/-- R142 to R144: the moves between a register and a timer, in a state whose phase 1 is over. -/
def Obligations.TimerMoves : Prop :=
  ∀ (x : Nibble) (s : State),
    decode (0xF#4 ++ x ++ 0x07#8 : Word) = .ldVxDt x ∧
    (∃ t, exec (.ldVxDt x) s = .next t ∧ (∀ r, t.reg r = if r = x then s.dt else s.reg r) ∧ t.pc = s.pc + 2 ∧
      { t with v := s.v, pc := s.pc } = s) ∧
    decode (0xF#4 ++ x ++ 0x15#8 : Word) = .ldDtVx x ∧
    exec (.ldDtVx x) s = .next { s with dt := s.reg x, pc := s.pc + 2 } ∧
    decode (0xF#4 ++ x ++ 0x18#8 : Word) = .ldStVx x ∧
    exec (.ldStVx x) s = .next { s with st := s.reg x, pc := s.pc + 2 }

/-! ### Index register and Memory -/

/-- R150, R152: the two loads of I, zero-extended, and what each does to the mode flag. -/
def Obligations.IndexLoadsSetTheMode : Prop :=
  ∀ (nnn : Addr12) (x : Nibble) (s : State),
    decode (0xA#4 ++ nnn : Word) = .ldI nnn ∧
    (∃ t, exec (.ldI nnn) s = .next t ∧ t.i.toNat = nnn.toNat ∧ t.drawFont = false ∧ t.pc = s.pc + 2 ∧
      { t with i := s.i, drawFont := s.drawFont, pc := s.pc } = s) ∧
    decode (0xF#4 ++ x ++ 0x29#8 : Word) = .ldFVx x ∧
    (∃ t, exec (.ldFVx x) s = .next t ∧ t.i.toNat = (s.reg x).toNat ∧ t.drawFont = true ∧ t.pc = s.pc + 2 ∧
      { t with i := s.i, drawFont := s.drawFont, pc := s.pc } = s)

/-- R151: add to index mod 65536, with no flag and the mode flag as it was. -/
def Obligations.AddToIndexModulo65536 : Prop :=
  ∀ (x : Nibble) (s : State),
    decode (0xF#4 ++ x ++ 0x1E#8 : Word) = .addIVx x ∧
    ∃ t, exec (.addIVx x) s = .next t ∧ t.i.toNat = (s.i.toNat + (s.reg x).toNat) % 65536 ∧ t.pc = s.pc + 2 ∧
      { t with i := s.i, pc := s.pc } = s

/-- R153: with I + 2 in Memory the three decimal digits are at I, I + 1, I + 2 and every other address reads as before; else
MemWriteOob with the lowest offending address, and nothing is written. -/
def Obligations.BcdStoresThreeDigits : Prop :=
  ∀ (x : Nibble) (s : State),
    decode (0xF#4 ++ x ++ 0x33#8 : Word) = .ldBVx x ∧
    (s.i.toNat + 2 ≤ 0xFFF → ∃ t, exec (.ldBVx x) s = .next t ∧
      (∀ a, (t.mem.read a).toNat =
        if a = s.i.toNat then (s.reg x).toNat / 100 % 100
        else if a = s.i.toNat + 1 then (s.reg x).toNat / 10 % 10
        else if a = s.i.toNat + 2 then (s.reg x).toNat % 10 else (s.mem.read a).toNat) ∧
      t.pc = s.pc + 2 ∧ { t with mem := s.mem, pc := s.pc } = s) ∧
    (s.i.toNat + 2 > 0xFFF → exec (.ldBVx x) s = .next { s with fault :=
      { code := .memWriteOob, pc := s.pc, opcode := 0xF#4 ++ x ++ 0x33#8,
        addr := BitVec.ofNat 17 (max s.i.toNat 0x1000) } })

/-- R154: V0 to V(x-1) are stored at I to I + x - 1 and every other address reads as before; x = 0 stores nothing and cannot
fault; a byte above 0xFFF raises MemWriteOob and nothing is written. -/
def Obligations.BlockStoreWritesXRegisters : Prop :=
  ∀ (x : Nibble) (s : State),
    decode (0xF#4 ++ x ++ 0x55#8 : Word) = .ldMiVx x ∧
    (x = 0 ∨ s.i.toNat + x.toNat - 1 ≤ 0xFFF → ∃ t, exec (.ldMiVx x) s = .next t ∧
      (∀ k : Nibble, k.toNat < x.toNat → t.mem.read (s.i.toNat + k.toNat) = s.reg k) ∧
      (∀ a, a < s.i.toNat ∨ s.i.toNat + x.toNat ≤ a → t.mem.read a = s.mem.read a) ∧
      t.pc = s.pc + 2 ∧ { t with mem := s.mem, pc := s.pc } = s) ∧
    (x ≠ 0 → s.i.toNat + x.toNat - 1 > 0xFFF → exec (.ldMiVx x) s = .next { s with fault :=
      { code := .memWriteOob, pc := s.pc, opcode := 0xF#4 ++ x ++ 0x55#8,
        addr := BitVec.ofNat 17 (max s.i.toNat 0x1000) } })

/-- R155: V0 to V(x-1) are loaded from I to I + x - 1, V(x) to VF are as before; x = 0 loads nothing and cannot fault; a byte
above 0xFFF raises MemReadOob and nothing is loaded. -/
def Obligations.BlockLoadReadsXRegisters : Prop :=
  ∀ (x : Nibble) (s : State),
    decode (0xF#4 ++ x ++ 0x65#8 : Word) = .ldVxMi x ∧
    (x = 0 ∨ s.i.toNat + x.toNat - 1 ≤ 0xFFF → ∃ t, exec (.ldVxMi x) s = .next t ∧
      (∀ r, t.reg r = if r.toNat < x.toNat then s.mem.read (s.i.toNat + r.toNat) else s.reg r) ∧
      t.pc = s.pc + 2 ∧ { t with v := s.v, pc := s.pc } = s) ∧
    (x ≠ 0 → s.i.toNat + x.toNat - 1 > 0xFFF → exec (.ldVxMi x) s = .next { s with fault :=
      { code := .memReadOob, pc := s.pc, opcode := 0xF#4 ++ x ++ 0x65#8,
        addr := BitVec.ofNat 17 (max s.i.toNat 0x1000) } })

/-- R154, R155 together: what a block store saved, a block load of the same x brings back, whatever the registers held in
between, wherever the store does not fault. -/
def Obligations.BlockLoadRestoresBlockStore : Prop :=
  ∀ (x : Nibble) (s : State) (w : Vector Byte 16), x = 0 ∨ s.i.toNat + x.toNat - 1 ≤ 0xFFF →
    ∃ t u, exec (.ldMiVx x) s = .next t ∧ exec (.ldVxMi x) { t with v := w } = .next u ∧
      ∀ r : Nibble, r.toNat < x.toNat → u.reg r = s.reg r

/-- R60: a store is seen by the very next fetch. Fx55 with x at least 2 and I at the next instruction replaces it by the word
V0, V1, the byte at the lower address being the high one. -/
def Obligations.StoreIsSeenByTheNextFetch : Prop :=
  ∀ (x : Nibble) (s : State), 2 ≤ x.toNat → s.i = s.pc + 2 → s.i.toNat + x.toNat - 1 ≤ 0xFFF →
    ∃ t, exec (.ldMiVx x) s = .next t ∧ t.fetch = some (s.reg 0 ++ s.reg 1 : Word)

/-! ### Display -/

/-- R161: CLS clears all 2048 cells and advances pc, in every state; nothing else changes. -/
def Obligations.ClearScreenZeroesEveryPixel : Prop :=
  ∀ (b1 : Nibble) (s : State),
    decode (0x0#4 ++ b1 ++ 0xE#4 ++ 0x0#4 : Word) = .cls b1 ∧
    ∃ t, exec (.cls b1) s = .next t ∧ (∀ x y, t.fb.pixel x y = false) ∧ t.pc = s.pc + 2 ∧
      { t with fb := s.fb, pc := s.pc } = s

/-- R163: in standard mode every pixel is XORed with the sprite bit that falls on it, VF says whether some lit pixel was
under a bit 1 and no other register changes; a source byte above 0xFFF raises MemReadOob and nothing is drawn. -/
def Obligations.StandardDrawXorsTheSprite : Prop :=
  ∀ (x y n : Nibble) (s : State), n ≠ 0 → s.drawFont = false →
    decode (0xD#4 ++ x ++ y ++ n : Word) = .drw x y n ∧
    (s.i.toNat + n.toNat - 1 ≤ 0xFFF → ∃ t, exec (.drw x y n) s = .next t ∧
      (∀ px py, t.fb.pixel px py = (s.fb.pixel px py ^^ s.standardBit (s.reg x) (s.reg y) n.toNat px py)) ∧
      (t.reg 0xF = 0 ∨ t.reg 0xF = 1) ∧
      (t.reg 0xF = 1 ↔ ∃ px py, s.fb.pixel px py = true ∧ s.standardBit (s.reg x) (s.reg y) n.toNat px py = true) ∧
      (∀ r, r ≠ 0xF → t.reg r = s.reg r) ∧ t.pc = s.pc + 2 ∧ { t with v := s.v, fb := s.fb, pc := s.pc } = s) ∧
    (s.i.toNat + n.toNat - 1 > 0xFFF → exec (.drw x y n) s = .next { s with fault :=
      { code := .memReadOob, pc := s.pc, opcode := 0xD#4 ++ x ++ y ++ n,
        addr := BitVec.ofNat 17 (max s.i.toNat 0x1000) } })

/-- R164: in font mode the same with the 4 by 5 glyph I names, whatever n and whatever the font table; I above 15 raises
GlyphIndexOob and nothing is drawn. -/
def Obligations.FontDrawXorsTheGlyph : Prop :=
  ∀ (x y n : Nibble) (s : State), n ≠ 0 → s.drawFont = true →
    decode (0xD#4 ++ x ++ y ++ n : Word) = .drw x y n ∧
    (s.i.toNat ≤ 15 → ∃ t, exec (.drw x y n) s = .next t ∧
      (∀ px py, t.fb.pixel px py = (s.fb.pixel px py ^^ s.fontBit (s.reg x) (s.reg y) px py)) ∧
      (t.reg 0xF = 0 ∨ t.reg 0xF = 1) ∧
      (t.reg 0xF = 1 ↔ ∃ px py, s.fb.pixel px py = true ∧ s.fontBit (s.reg x) (s.reg y) px py = true) ∧
      (∀ r, r ≠ 0xF → t.reg r = s.reg r) ∧ t.pc = s.pc + 2 ∧ { t with v := s.v, fb := s.fb, pc := s.pc } = s) ∧
    (s.i.toNat > 15 → exec (.drw x y n) s = .next { s with fault :=
      { code := .glyphIndexOob, pc := s.pc, opcode := 0xD#4 ++ x ++ y ++ n, addr := BitVec.ofNat 17 s.i.toNat } })

/-- R165 (c), its second half being the spec's inference: in either mode two identical draws restore the display, and the
second reports 1 exactly when some sprite bit 1 lay on a pixel that was 0 before the first. (x and y are not 0xF, or the
first draw's flag would move the second.) -/
def Obligations.DrawingTwiceRestoresTheDisplay : Prop :=
  ∀ (x y n : Nibble) (s : State), n ≠ 0 → x ≠ 0xF → y ≠ 0xF → faultTable s (.drw x y n) = none →
    ∃ t u, exec (.drw x y n) s = .next t ∧ exec (.drw x y n) t = .next u ∧ u.fb = s.fb ∧
      (u.reg 0xF = 0 ∨ u.reg 0xF = 1) ∧
      (u.reg 0xF = 1 ↔ ∃ px py, s.fb.pixel px py = false ∧ s.drawnBit x y n px py = true)

/-! ### Stubs and unknown words -/

/-- R180 to R189: the eight stubs and every UNKNOWN word complete in every state, advance pc by 2 and change nothing else. -/
def Obligations.StubsAndUnknownOnlyAdvance : Prop :=
  ∀ (b1 x y n : Nibble) (op : Word) (s : State),
    decode (0x0#4 ++ b1 ++ 0xC#4 ++ n : Word) = .scd b1 n ∧ decode (0x0#4 ++ b1 ++ 0xF#4 ++ 0xB#4 : Word) = .scr b1 ∧
    decode (0x0#4 ++ b1 ++ 0xF#4 ++ 0xC#4 : Word) = .scl b1 ∧ decode (0x0#4 ++ b1 ++ 0xF#4 ++ 0xE#4 : Word) = .low b1 ∧
    decode (0x0#4 ++ b1 ++ 0xF#4 ++ 0xF#4 : Word) = .high b1 ∧ decode (0xD#4 ++ x ++ y ++ 0x0#4 : Word) = .drwExt x y ∧
    decode (0xF#4 ++ x ++ 0x0A#8 : Word) = .ldVxK x ∧ decode (0xF#4 ++ x ++ 0x30#8 : Word) = .ldHfVx x ∧
    (tableId op = .unknown → decode op = .unknown op) ∧
    ∀ i ∈ [Instr.scd b1 n, .scr b1, .scl b1, .low b1, .high b1, .drwExt x y, .ldVxK x, .ldHfVx x, .unknown op],
      exec i s = .next { s with pc := s.pc + 2 }

/-! ### Host operations -/

/-- R37, R230: what `Reset` leaves, from any state. -/
def Obligations.ResetLeavesTheResetValues : Prop :=
  ∀ s : State, ∃ t, s.apply .reset = .next (t, .nothing) ∧
    (∀ r, t.reg r = 0) ∧ t.i = 0 ∧ t.pc = 0x200 ∧ (∀ j : Fin 16, t.stack[j] = 0) ∧ t.sp = 0 ∧ t.dt = 0 ∧ t.st = 0 ∧
    (∀ k, t.keyAt k = false) ∧ t.drawFont = false ∧ (∀ a, t.mem.read a = 0) ∧ (∀ x y, t.fb.pixel x y = false) ∧
    t.fault = { code := .none, pc := 0, opcode := 0, addr := 0 }

/-- R233, R234: `LoadRom` copies the first min(len, ROM_MAX) bytes to 0x200 upward, whatever ROM_MAX is, and changes nothing
else; `unreadable` fails and changes nothing. -/
def Obligations.LoadRomCopiesTheImage : Prop :=
  ∀ (s : State) (b : List Byte),
    (∃ t, s.apply (.loadRom (.bytes b)) = .next (t, .loaded true) ∧
      (∀ a, t.mem.read a =
        if 0x200 ≤ a ∧ a < 0x200 + min b.length Config.romMax.val then b.getD (a - 0x200) 0 else s.mem.read a) ∧
      { t with mem := s.mem } = s) ∧
    s.apply (.loadRom .unreadable) = .next (s, .loaded false)

/-- R211, R214, R215: `KeyEvent` writes one key slot and nothing else; `FbRead` and `FaultStatus` answer and change nothing;
in a faulted block too (R205). -/
def Obligations.KeyEventAndReadsAtTheBoundary : Prop :=
  ∀ s : State,
    (∀ (k : Nibble) (p : Bool), ∃ t, s.apply (.keyEvent k p) = .next (t, .nothing) ∧
      (∀ j, t.keyAt j = if j = k then p else s.keyAt j) ∧ { t with key := s.key } = s) ∧
    (∀ x y, s.apply (.fbRead x y) = .next (s, .pixel (s.fb.pixel x y))) ∧
    s.apply .faultStatus = .next (s, .faultRecord s.fault)

/-- R240, which the spec marks as its inference: in a finished program every step changes the timers only, and the program
stays finished. -/
def Obligations.FinishedProgramOnlyCountsDown : Prop :=
  ∀ s : State, s.finished → ∃ t, step s = .next t ∧ t.finished ∧ { t with dt := s.dt, st := s.st } = s
end

