-- ==== Sys2Proof/Laws/Word.lean ====
section
/-! SUPPORT. The nibbles of a word put together from nibbles, a byte or an address, and back (R71, R72). -/

namespace Sys2Proof

theorem toNat_catNibbles (b0 b1 b2 b3 : Nibble) :
    (catNibbles b0 b1 b2 b3).toNat = b0.toNat * 4096 + b1.toNat * 256 + b2.toNat * 16 + b3.toNat := by
  unfold catNibbles
  rw [BitVec.toNat_append (x := b0 ++ b1 ++ b2) (y := b3), BitVec.toNat_append (x := b0 ++ b1) (y := b2),
    BitVec.toNat_append (x := b0) (y := b1)]
  have := b0.isLt; have := b1.isLt; have := b2.isLt; have := b3.isLt
  rw [← Nat.shiftLeft_add_eq_or_of_lt (by omega), ← Nat.shiftLeft_add_eq_or_of_lt (by omega),
    ← Nat.shiftLeft_add_eq_or_of_lt (by omega)]
  simp only [Nat.shiftLeft_eq]
  omega

theorem toNat_catByte (b0 x : Nibble) (kk : Byte) :
    (catByte b0 x kk).toNat = b0.toNat * 4096 + x.toNat * 256 + kk.toNat := by
  unfold catByte
  rw [BitVec.toNat_append (x := b0 ++ x) (y := kk), BitVec.toNat_append (x := b0) (y := x)]
  have := b0.isLt; have := x.isLt; have := kk.isLt
  rw [← Nat.shiftLeft_add_eq_or_of_lt (by omega), ← Nat.shiftLeft_add_eq_or_of_lt (by omega)]
  simp only [Nat.shiftLeft_eq]
  omega

theorem toNat_catAddr (b0 : Nibble) (nnn : Addr12) : (catAddr b0 nnn).toNat = b0.toNat * 4096 + nnn.toNat := by
  unfold catAddr
  rw [BitVec.toNat_append (x := b0) (y := nnn)]
  have := b0.isLt; have := nnn.isLt
  rw [← Nat.shiftLeft_add_eq_or_of_lt (by omega)]
  simp only [Nat.shiftLeft_eq]

theorem toNat_wordOfBytes (hi lo : Byte) : (wordOfBytes hi lo).toNat = hi.toNat * 256 + lo.toNat := by
  unfold wordOfBytes
  rw [BitVec.toNat_append (x := hi) (y := lo)]
  have := hi.isLt; have := lo.isLt
  rw [← Nat.shiftLeft_add_eq_or_of_lt (by omega)]
  simp only [Nat.shiftLeft_eq]

/-! ### A field as a number -/

theorem toNat_nib0 (op : Word) : (nib0 op).toNat = op.toNat / 4096 := by
  have := op.isLt
  simp only [nib0, BitVec.extractLsb'_toNat, Nat.shiftRight_eq_div_pow]; omega
theorem toNat_nib1 (op : Word) : (nib1 op).toNat = op.toNat / 256 % 16 := by
  simp only [nib1, BitVec.extractLsb'_toNat, Nat.shiftRight_eq_div_pow]
theorem toNat_nib2 (op : Word) : (nib2 op).toNat = op.toNat / 16 % 16 := by
  simp only [nib2, BitVec.extractLsb'_toNat, Nat.shiftRight_eq_div_pow]
theorem toNat_nib3 (op : Word) : (nib3 op).toNat = op.toNat % 16 := by
  simp only [nib3, BitVec.extractLsb'_toNat, Nat.shiftRight_eq_div_pow]; omega
theorem toNat_lowByte (op : Word) : (lowByte op).toNat = op.toNat % 256 := by
  simp only [lowByte, BitVec.extractLsb'_toNat, Nat.shiftRight_eq_div_pow]; omega
theorem toNat_highByte (op : Word) : (highByte op).toNat = op.toNat / 256 := by
  have := op.isLt
  simp only [highByte, BitVec.extractLsb'_toNat, Nat.shiftRight_eq_div_pow]; omega
theorem toNat_addrField (op : Word) : (addrField op).toNat = op.toNat % 4096 := by
  simp only [addrField, BitVec.extractLsb'_toNat, Nat.shiftRight_eq_div_pow]; omega

/-! ### Fields of a word put together -/

variable (b0 b1 b2 b3 x : Nibble) (kk : Byte) (nnn : Addr12) (op : Word)

@[simp] theorem nib0_catNibbles : nib0 (catNibbles b0 b1 b2 b3) = b0 := by
  apply BitVec.eq_of_toNat_eq; rw [toNat_nib0, toNat_catNibbles]; omega
@[simp] theorem nib1_catNibbles : nib1 (catNibbles b0 b1 b2 b3) = b1 := by
  apply BitVec.eq_of_toNat_eq; rw [toNat_nib1, toNat_catNibbles]; omega
@[simp] theorem nib2_catNibbles : nib2 (catNibbles b0 b1 b2 b3) = b2 := by
  apply BitVec.eq_of_toNat_eq; rw [toNat_nib2, toNat_catNibbles]; omega
@[simp] theorem nib3_catNibbles : nib3 (catNibbles b0 b1 b2 b3) = b3 := by
  apply BitVec.eq_of_toNat_eq; rw [toNat_nib3, toNat_catNibbles]; omega
@[simp] theorem nib0_catByte : nib0 (catByte b0 x kk) = b0 := by
  apply BitVec.eq_of_toNat_eq; rw [toNat_nib0, toNat_catByte]; omega
@[simp] theorem nib1_catByte : nib1 (catByte b0 x kk) = x := by
  apply BitVec.eq_of_toNat_eq; rw [toNat_nib1, toNat_catByte]; omega
@[simp] theorem lowByte_catByte : lowByte (catByte b0 x kk) = kk := by
  apply BitVec.eq_of_toNat_eq; rw [toNat_lowByte, toNat_catByte]; omega
@[simp] theorem nib0_catAddr : nib0 (catAddr b0 nnn) = b0 := by
  apply BitVec.eq_of_toNat_eq; rw [toNat_nib0, toNat_catAddr]; omega
@[simp] theorem addrField_catAddr : addrField (catAddr b0 nnn) = nnn := by
  apply BitVec.eq_of_toNat_eq; rw [toNat_addrField, toNat_catAddr]; omega
@[simp] theorem wordOfBytes_high_low : wordOfBytes (highByte op) (lowByte op) = op := by
  apply BitVec.eq_of_toNat_eq; rw [toNat_wordOfBytes, toNat_highByte, toNat_lowByte]; omega

/-! ### A word put together from its own fields -/

theorem catNibbles_nibs : catNibbles (nib0 op) (nib1 op) (nib2 op) (nib3 op) = op := by
  apply BitVec.eq_of_toNat_eq; rw [toNat_catNibbles, toNat_nib0, toNat_nib1, toNat_nib2, toNat_nib3]; omega
theorem catByte_fields : catByte (nib0 op) (nib1 op) (lowByte op) = op := by
  apply BitVec.eq_of_toNat_eq; rw [toNat_catByte, toNat_nib0, toNat_nib1, toNat_lowByte]; omega
theorem catAddr_fields : catAddr (nib0 op) (addrField op) = op := by
  apply BitVec.eq_of_toNat_eq; rw [toNat_catAddr, toNat_nib0, toNat_addrField]; omega

/-! ### Masks (R78): a masked comparison is a comparison of fields -/

theorem nib0_and (a m : Word) : nib0 (a &&& m) = nib0 a &&& nib0 m := by simp [nib0, BitVec.extractLsb'_and]
theorem nib1_and (a m : Word) : nib1 (a &&& m) = nib1 a &&& nib1 m := by simp [nib1, BitVec.extractLsb'_and]
theorem nib2_and (a m : Word) : nib2 (a &&& m) = nib2 a &&& nib2 m := by simp [nib2, BitVec.extractLsb'_and]
theorem nib3_and (a m : Word) : nib3 (a &&& m) = nib3 a &&& nib3 m := by simp [nib3, BitVec.extractLsb'_and]

theorem word_ext {a b : Word} (h0 : nib0 a = nib0 b) (h1 : nib1 a = nib1 b) (h2 : nib2 a = nib2 b)
    (h3 : nib3 a = nib3 b) : a = b := by
  rw [← catNibbles_nibs a, ← catNibbles_nibs b, h0, h1, h2, h3]

/-- A word masked equals a value exactly when its nibbles do. -/
theorem and_eq_iff (a m b : Word) :
    a &&& m = b ↔ nib0 a &&& nib0 m = nib0 b ∧ nib1 a &&& nib1 m = nib1 b ∧
      nib2 a &&& nib2 m = nib2 b ∧ nib3 a &&& nib3 m = nib3 b := by
  constructor
  · rintro rfl
    exact ⟨(nib0_and _ _).symm, (nib1_and _ _).symm, (nib2_and _ _).symm, (nib3_and _ _).symm⟩
  · rintro ⟨h0, h1, h2, h3⟩
    exact word_ext (by rw [nib0_and, h0]) (by rw [nib1_and, h1]) (by rw [nib2_and, h2]) (by rw [nib3_and, h3])

/-- The low byte is its two nibbles. -/
theorem nib2_catByte : nib2 (catByte b0 x kk) = kk.extractLsb' 4 4 := by
  apply BitVec.eq_of_toNat_eq
  rw [toNat_nib2, toNat_catByte]
  simp only [BitVec.extractLsb'_toNat, Nat.shiftRight_eq_div_pow]; omega
theorem nib3_catByte : nib3 (catByte b0 x kk) = kk.extractLsb' 0 4 := by
  apply BitVec.eq_of_toNat_eq
  rw [toNat_nib3, toNat_catByte]
  simp only [BitVec.extractLsb'_toNat, Nat.shiftRight_eq_div_pow]; omega

end Sys2Proof
end

