-- ==== Sys2Proof/Laws/Decode.lean ====
section
/-! SUPPORT. The decode procedure major by major (R73), and the table's masks, none of which looks at b1 (R74). -/

namespace Sys2Proof

/-- Every nibble is one of the sixteen: the case split over b0. -/
theorem nibble_cases (a : Nibble) :
    a = 0x0 ∨ a = 0x1 ∨ a = 0x2 ∨ a = 0x3 ∨ a = 0x4 ∨ a = 0x5 ∨ a = 0x6 ∨ a = 0x7 ∨
    a = 0x8 ∨ a = 0x9 ∨ a = 0xA ∨ a = 0xB ∨ a = 0xC ∨ a = 0xD ∨ a = 0xE ∨ a = 0xF := by
  revert a; decide

variable (op : Word)

theorem decode_major0 (h : nib0 op = 0x0) : decode op = decodeMajor0 op := by simp [decode, h]
theorem decode_major1 (h : nib0 op = 0x1) : decode op = .jp (addrField op) := by simp [decode, h]
theorem decode_major2 (h : nib0 op = 0x2) : decode op = .call (addrField op) := by simp [decode, h]
theorem decode_major3 (h : nib0 op = 0x3) : decode op = .seVxKk (nib1 op) (lowByte op) := by simp [decode, h]
theorem decode_major4 (h : nib0 op = 0x4) : decode op = .sneVxKk (nib1 op) (lowByte op) := by simp [decode, h]
theorem decode_major5 (h : nib0 op = 0x5) : decode op = .seVxVy (nib1 op) (nib2 op) (nib3 op) := by simp [decode, h]
theorem decode_major6 (h : nib0 op = 0x6) : decode op = .ldVxKk (nib1 op) (lowByte op) := by simp [decode, h]
theorem decode_major7 (h : nib0 op = 0x7) : decode op = .addVxKk (nib1 op) (lowByte op) := by simp [decode, h]
theorem decode_major8 (h : nib0 op = 0x8) : decode op = decodeMajor8 op := by simp [decode, h]
theorem decode_major9 (h : nib0 op = 0x9) : decode op = .sneVxVy (nib1 op) (nib2 op) (nib3 op) := by simp [decode, h]
theorem decode_majorA (h : nib0 op = 0xA) : decode op = .ldI (addrField op) := by simp [decode, h]
theorem decode_majorB (h : nib0 op = 0xB) : decode op = .jpV0 (addrField op) := by simp [decode, h]
theorem decode_majorC (h : nib0 op = 0xC) : decode op = .rnd (nib1 op) (lowByte op) := by simp [decode, h]
theorem decode_majorD (h : nib0 op = 0xD) : decode op = decodeMajorD op := by simp [decode, h]
theorem decode_majorE (h : nib0 op = 0xE) : decode op = decodeMajorE op := by simp [decode, h]
theorem decode_majorF (h : nib0 op = 0xF) : decode op = decodeMajorF op := by simp [decode, h]

/-- No mask of the table inspects b1 (R74, decision D3). -/
theorem opcodeRows_ignore_nib1 : ∀ r ∈ opcodeRows, nib1 r.mask = 0 ∧ nib1 r.value = 0 := by decide

/-- Rows that do not inspect b1 are chosen alike for words that differ in b1 only. -/
theorem bestRow_ignores_nib1 (rows : List Row) (h : ∀ r ∈ rows, nib1 r.mask = 0 ∧ nib1 r.value = 0) :
    bestRow op rows = bestRow (catNibbles (nib0 op) 0 (nib2 op) (nib3 op)) rows := by
  induction rows with
  | nil => rfl
  | cons r rest ih =>
    have hr := h r (by simp)
    have : r.admits op = r.admits (catNibbles (nib0 op) 0 (nib2 op) (nib3 op)) := by
      rw [Bool.eq_iff_iff]
      simp [Row.admits, beq_iff_eq, and_eq_iff, hr.1, hr.2]
    simp only [bestRow, ih fun q hq => h q (by simp [hq]), this]

theorem tableId_ignores_nib1 : tableId op = tableId (catNibbles (nib0 op) 0 (nib2 op) (nib3 op)) := by
  unfold tableId
  rw [← bestRow_ignores_nib1 op opcodeRows opcodeRows_ignore_nib1]

/-- The decode procedure does not inspect b1 either (R73, R75, decision D3). -/
theorem decode_id_ignores_nib1 :
    (decode op).id = (decode (catNibbles (nib0 op) 0 (nib2 op) (nib3 op))).id := by
  have lb : lowByte (catNibbles (nib0 op) 0 (nib2 op) (nib3 op)) = lowByte op := by
    apply BitVec.eq_of_toNat_eq
    rw [toNat_lowByte, toNat_lowByte, toNat_catNibbles, toNat_nib0, toNat_nib2, toNat_nib3]; simp; omega
  have h' := nib0_catNibbles (nib0 op) 0 (nib2 op) (nib3 op)
  rcases nibble_cases (nib0 op) with h|h|h|h|h|h|h|h|h|h|h|h|h|h|h|h <;> rw [h] at h' lb
  · rw [decode_major0 _ h, h, decode_major0 _ h']
    simp only [decodeMajor0, nib2_catNibbles, nib3_catNibbles, apply_ite Instr.id]; rfl
  · rw [decode_major1 _ h, h, decode_major1 _ h']; rfl
  · rw [decode_major2 _ h, h, decode_major2 _ h']; rfl
  · rw [decode_major3 _ h, h, decode_major3 _ h']; rfl
  · rw [decode_major4 _ h, h, decode_major4 _ h']; rfl
  · rw [decode_major5 _ h, h, decode_major5 _ h']; rfl
  · rw [decode_major6 _ h, h, decode_major6 _ h']; rfl
  · rw [decode_major7 _ h, h, decode_major7 _ h']; rfl
  · rw [decode_major8 _ h, h, decode_major8 _ h']
    simp only [decodeMajor8, nib3_catNibbles, apply_ite Instr.id]; rfl
  · rw [decode_major9 _ h, h, decode_major9 _ h']; rfl
  · rw [decode_majorA _ h, h, decode_majorA _ h']; rfl
  · rw [decode_majorB _ h, h, decode_majorB _ h']; rfl
  · rw [decode_majorC _ h, h, decode_majorC _ h']; rfl
  · rw [decode_majorD _ h, h, decode_majorD _ h']
    simp only [decodeMajorD, nib2_catNibbles, nib3_catNibbles, apply_ite Instr.id]; rfl
  · rw [decode_majorE _ h, h, decode_majorE _ h']
    simp only [decodeMajorE, lb, apply_ite Instr.id]; rfl
  · rw [decode_majorF _ h, h, decode_majorF _ h']
    simp only [decodeMajorF, lb, apply_ite Instr.id]; rfl

end Sys2Proof
end

