-- ==== Sys2Proof/Laws/Memory.lean ====
section
/-! SUPPORT. Memory: a read after a write, and the canonical form, which every memory operation keeps (R32, R55, R58). -/

namespace Sys2Proof.Machine

/-! ### Reading after writing -/

@[simp] theorem Memory.read_nil (a : Nat) : Memory.read [] a = 0 := rfl

theorem Memory.read_insert (m : Memory) (a b : Nat) (w : Byte) (h : ∀ c ∈ m, c.1 ≠ a) :
    (Memory.insert m a w).read b = if b = a then w else m.read b := by
  induction m with
  | nil => simp [Memory.insert, Memory.read]
  | cons c rest ih =>
    have hc := h c (by simp)
    have ih := ih fun d hd => h d (by simp [hd])
    simp only [Memory.insert]
    split
    · simp [Memory.read]
    · simp only [Memory.read, ih]
      by_cases hb : b = c.1
      · simp [hb, hc]
      · simp [hb]

theorem Memory.read_erase (m : Memory) (a b : Nat) :
    Memory.read (m.filter fun c => c.1 != a) b = if b = a then 0 else m.read b := by
  induction m with
  | nil => simp
  | cons c rest ih =>
    simp only [List.filter_cons]
    by_cases hc : c.1 = a
    · simp only [hc, bne_self_eq_false, Bool.false_eq_true, if_false, ih, Memory.read]
      split <;> simp_all
    · simp only [bne_iff_ne, ne_eq, hc, not_false_eq_true, if_true, Memory.read, ih]
      split <;> simp_all

/-- A write changes the addressed byte and no other (R55, R58); past the end of Memory it changes nothing. -/
theorem Memory.read_write (m : Memory) (a b : Nat) (w : Byte) :
    (m.write a w).read b = if b = a ∧ a < 0x1000 then w else m.read b := by
  unfold Memory.write
  by_cases ha : a < Config.memSize
  · simp only [ha, if_true]
    have ha' : a < 0x1000 := ha
    by_cases hw : w = 0
    · simp [hw, Memory.read_erase, ha']
    · rw [if_neg hw, Memory.read_insert _ _ _ _ (by simp), Memory.read_erase]
      simp only [ha', and_true]
      split <;> rfl
  · have ha' : ¬ a < 0x1000 := ha
    simp [ha, ha']

theorem Memory.read_write_same (m : Memory) (a : Nat) (w : Byte) (h : a < 0x1000) : (m.write a w).read a = w := by
  simp [Memory.read_write, h]

theorem Memory.read_write_other (m : Memory) (a b : Nat) (w : Byte) (h : b ≠ a) :
    (m.write a w).read b = m.read b := by
  simp [Memory.read_write, h]

/-- Bytes written at ascending addresses, all inside Memory, are read back; every other address reads as before. -/
theorem Memory.read_writeBytes (bs : List Byte) : ∀ (m : Memory) (a b : Nat), a + bs.length ≤ 0x1000 →
    (m.writeBytes a bs).read b =
      if h : a ≤ b ∧ b < a + bs.length then bs[b - a]'(by omega) else m.read b := by
  induction bs with
  | nil => intro m a b _; simp [Memory.writeBytes]
  | cons w rest ih =>
    intro m a b hlen
    simp only [List.length_cons] at hlen
    rw [Memory.writeBytes, ih _ _ _ (by omega)]
    by_cases hb : b = a
    · subst hb
      rw [dif_neg (by omega), dif_pos (by simp), Memory.read_write_same _ _ _ (by omega)]
      simp
    · by_cases hin : a + 1 ≤ b ∧ b < a + 1 + rest.length
      · rw [dif_pos hin, dif_pos (by simp; omega)]
        have : b - a = (b - (a + 1)) + 1 := by omega
        simp [this]
      · rw [dif_neg hin, dif_neg (by simp; omega), Memory.read_write_other _ _ _ _ hb]

/-! ### The canonical form -/

theorem Memory.wf_nil : Memory.wf [] := by simp [Memory.wf]

theorem Memory.insert_wf (m : Memory) (a : Nat) (w : Byte) (h : m.wf) (ha : a < Config.memSize) (hw : w ≠ 0)
    (hne : ∀ c ∈ m, c.1 ≠ a) : (Memory.insert m a w).wf := by
  have mem_insert : ∀ (l : Memory) (c : Host.Cell), c ∈ Memory.insert l a w → c = (a, w) ∨ c ∈ l := by
    intro l
    induction l with
    | nil => intro c hc; simpa [Memory.insert] using hc
    | cons d rest ih =>
      intro c hc
      simp only [Memory.insert] at hc
      split at hc
      · simpa using hc
      · rcases List.mem_cons.1 hc with h | hc
        · simp [h]
        · rcases ih c hc with h | h <;> simp [h]
  induction m with
  | nil => exact ⟨by simp [Memory.insert], by simpa [Memory.insert] using And.intro ha hw⟩
  | cons d rest ih =>
    obtain ⟨hp, hall⟩ := h
    rw [List.pairwise_cons] at hp
    have hd := hne d (by simp)
    simp only [Memory.insert]
    split <;> rename_i hlt
    · refine ⟨List.pairwise_cons.2 ⟨fun c hc => ?_, List.pairwise_cons.2 hp⟩, fun c hc => ?_⟩
      · rcases List.mem_cons.1 hc with rfl | hc
        · exact hlt
        · exact Nat.lt_trans hlt (hp.1 c hc)
      · rcases List.mem_cons.1 hc with rfl | hc
        · exact ⟨ha, hw⟩
        · exact hall c hc
    · have ih := ih ⟨hp.2, fun c hc => hall c (by simp [hc])⟩ fun c hc => hne c (by simp [hc])
      refine ⟨List.pairwise_cons.2 ⟨fun c hc => ?_, ih.1⟩, fun c hc => ?_⟩
      · rcases mem_insert rest c hc with rfl | hc
        · show d.1 < a; omega
        · exact hp.1 c hc
      · rcases List.mem_cons.1 hc with h | hc
        · exact h ▸ hall d (by simp)
        · exact ih.2 c hc

/-- A write keeps the canonical form. -/
theorem Memory.write_wf (m : Memory) (a : Nat) (w : Byte) (h : m.wf) : (m.write a w).wf := by
  unfold Memory.write
  split <;> rename_i ha
  · have hf : Memory.wf (m.filter fun c => c.1 != a) :=
      ⟨h.1.filter _, fun c hc => h.2 c (List.mem_filter.1 hc).1⟩
    dsimp only
    split <;> rename_i hw
    · exact hf
    · exact Memory.insert_wf _ _ _ hf ha hw (by simp)
  · exact h

theorem Memory.writeBytes_wf (bs : List Byte) : ∀ (m : Memory) (a : Nat), m.wf → (m.writeBytes a bs).wf := by
  induction bs with
  | nil => intro m a h; exact h
  | cons w rest ih => intro m a h; exact ih _ _ (Memory.write_wf m a w h)

/-! ### The sequences of Fx55 and Fx65 -/

@[simp] theorem State.storeRegs_reg (s : State) (n : Nat) (r : Nibble) : (s.storeRegs n).reg r = s.reg r := by
  induction n with
  | zero => rfl
  | succ n ih => simpa [State.storeRegs] using ih

/-- Storing registers writes Memory and nothing else. -/
theorem State.storeRegs_frame (s : State) (n : Nat) : { s.storeRegs n with mem := s.mem } = s := by
  induction n with
  | zero => rfl
  | succ n ih => exact ih

theorem State.storeRegs_wf (s : State) (n : Nat) (h : s.mem.wf) : (s.storeRegs n).mem.wf := by
  induction n with
  | zero => exact h
  | succ n ih => exact Memory.write_wf _ _ _ ih

/-- V0 to V(n-1) are at I to I + n - 1; every other address reads as before (R154). -/
theorem State.read_storeRegs (s : State) (n : Nat) (a : Nat) (h : s.i.toNat + n ≤ 0x1000) :
    (s.storeRegs n).mem.read a =
      if s.i.toNat ≤ a ∧ a < s.i.toNat + n then s.reg (BitVec.ofNat 4 (a - s.i.toNat)) else s.mem.read a := by
  induction n with
  | zero => rw [if_neg (by omega)]; rfl
  | succ n ih =>
    simp only [State.storeRegs, State.writeByte_mem, Memory.read_write, ih (by omega), State.ea]
    by_cases ha : a = s.i.toNat + n
    · rw [if_pos ⟨ha, by omega⟩, if_pos (by omega), ha, Nat.add_sub_cancel_left]
    · rw [if_neg (by omega)]
      by_cases hin : s.i.toNat ≤ a ∧ a < s.i.toNat + n
      · rw [if_pos hin, if_pos (by omega)]
      · rw [if_neg hin, if_neg (by omega)]

/-- Loading registers writes V and nothing else. -/
theorem State.loadRegs_frame (s : State) (n : Nat) : { s.loadRegs n with v := s.v } = s := by
  induction n with
  | zero => rfl
  | succ n ih => exact ih

/-- V0 to V(n-1) are the bytes at I to I + n - 1; every other register reads as before (R155). -/
theorem State.reg_loadRegs (s : State) (n : Nat) (r : Nibble) (h : n ≤ 16) :
    (s.loadRegs n).reg r = if r.toNat < n then s.mem.read (s.i.toNat + r.toNat) else s.reg r := by
  induction n with
  | zero => rfl
  | succ n ih =>
    simp only [State.loadRegs, State.reg_setReg, ih (by omega), State.ea]
    have hr : r = BitVec.ofNat 4 n ↔ r.toNat = n := by
      rw [← BitVec.toNat_inj, BitVec.toNat_ofNat, Nat.mod_eq_of_lt (by omega)]
    by_cases heq : r.toNat = n
    · rw [if_pos (hr.2 heq), if_pos (by omega), heq]
    · rw [if_neg (mt hr.1 heq)]
      by_cases hlt : r.toNat < n
      · rw [if_pos hlt, if_pos (by omega)]
      · rw [if_neg hlt, if_neg (by omega)]

/-- The range check (R54): some address exactly when the highest one is above 0xFFF, and then the lowest such. -/
theorem State.oob_eq_some (s : State) (n a : Nat) :
    s.oob n = some a ↔ (1 ≤ n ∧ s.i.toNat + n - 1 > 0xFFF) ∧ a = max s.i.toNat 0x1000 := by
  unfold State.oob
  split <;> simp_all [eq_comm]

theorem State.oob_eq_none (s : State) (n : Nat) :
    s.oob n = none ↔ n = 0 ∨ s.i.toNat + n ≤ 0x1000 := by
  unfold State.oob
  split <;> simp <;> omega

end Sys2Proof.Machine
end

