-- ==== Sys2Proof/Laws/Display.lean ====
section
/-! SUPPORT. The display: one pixel after a write, and a whole draw as one exclusive or per pixel (R160, R165). -/

namespace Sys2Proof.Machine

@[simp] theorem Framebuffer.pixel_blank (x : Fin 64) (y : Fin 32) : Framebuffer.blank.pixel x y = false := by
  simp [Framebuffer.pixel, Framebuffer.blank]

theorem Framebuffer.pixel_setPixel (fb : Framebuffer) (x x' : Fin 64) (y y' : Fin 32) (b : Bool) :
    (fb.setPixel x y b).pixel x' y' = if x' = x ∧ y' = y then b else fb.pixel x' y' := by
  simp only [Framebuffer.pixel, Framebuffer.setPixel, Fin.getElem_fin, Vector.getElem_set, Fin.ext_iff]
  by_cases hy : y.val = y'.val
  · by_cases hx : x.val = x'.val
    · simp [hy, hx]
    · simp [hy, hx, Ne.symm hx]
  · simp [hy, Ne.symm hy]

/-- Displays are equal when every pixel is. -/
theorem Framebuffer.ext {f g : Framebuffer} (h : ∀ x y, f.pixel x y = g.pixel x y) : f = g := by
  apply Vector.ext; intro j hj
  apply Vector.ext; intro k hk
  exact h ⟨k, hk⟩ ⟨j, hj⟩

theorem column_iff (px0 : Byte) (c : Nat) (hc : c < 64) (x : Fin 64) :
    x = Fin.ofNat 64 (px0.toNat + c) ↔ spriteColumn px0 x = c := by
  simp only [Fin.ext_iff, Fin.ofNat, spriteColumn]; omega

theorem row_iff (py0 : Byte) (r : Nat) (hr : r < 32) (y : Fin 32) :
    y = Fin.ofNat 32 (py0.toNat + r) ↔ spriteRow py0 y = r := by
  simp only [Fin.ext_iff, Fin.ofNat, spriteRow]; omega

/-- One row of a draw: each pixel of the row it falls on is XORed with its bit, every other is as before. -/
theorem pixel_plotRow (px0 py0 : Byte) (r : Nat) (bits : Nat → Bool) (hr : r < 32) (fb : Framebuffer)
    (w : Nat) (hw : w ≤ 64) (x : Fin 64) (y : Fin 32) :
    (plotRow px0 py0 r bits w fb).1.pixel x y =
      (fb.pixel x y ^^ (decide (spriteColumn px0 x < w ∧ spriteRow py0 y = r) && bits (spriteColumn px0 x))) := by
  induction w with
  | zero => simp [plotRow]
  | succ w ih =>
    simp only [plotRow, plot, Framebuffer.pixel_setPixel, column_iff px0 w (by omega), row_iff py0 r hr]
    by_cases hy : spriteRow py0 y = r
    · by_cases hx : spriteColumn px0 x = w
      · have hx' := (column_iff px0 w (by omega) x).2 hx
        have hy' := (row_iff py0 r hr y).2 hy
        rw [if_pos ⟨hx, hy⟩, ← hx', ← hy', ih (by omega)]
        simp [hx, hy]
      · rw [if_neg (by simp [hx]), ih (by omega)]
        have : (spriteColumn px0 x < w + 1) ↔ (spriteColumn px0 x < w) := by omega
        simp [this]
    · rw [if_neg (by simp [hy]), ih (by omega)]
      simp [hy]

/-- A whole draw: XOR of each pixel with the sprite bit that falls on it (R160, R165 (a)). -/
theorem pixel_plotRows (px0 py0 : Byte) (w : Nat) (bits : Nat → Nat → Bool) (hw : w ≤ 64) (fb : Framebuffer)
    (h : Nat) (hh : h ≤ 32) (x : Fin 64) (y : Fin 32) :
    (plotRows px0 py0 w bits h fb).1.pixel x y =
      (fb.pixel x y ^^ (decide (spriteColumn px0 x < w ∧ spriteRow py0 y < h) &&
        bits (spriteRow py0 y) (spriteColumn px0 x))) := by
  induction h with
  | zero => simp [plotRows]
  | succ h ih =>
    simp only [plotRows]
    rw [pixel_plotRow _ _ _ _ (by omega) _ _ hw, ih (by omega)]
    by_cases hy : spriteRow py0 y = h
    · simp [hy]
    · have : (spriteRow py0 y < h + 1) ↔ (spriteRow py0 y < h) := by omega
      simp [hy, this]

/-- The collision of one row: some pixel was 1 under a bit 1. -/
theorem collision_plotRow (px0 py0 : Byte) (r : Nat) (bits : Nat → Bool) (hr : r < 32) (fb : Framebuffer)
    (w : Nat) (hw : w ≤ 64) :
    (plotRow px0 py0 r bits w fb).2 = true ↔
      ∃ (x : Fin 64) (y : Fin 32), spriteColumn px0 x < w ∧ spriteRow py0 y = r ∧ fb.pixel x y = true ∧
        bits (spriteColumn px0 x) = true := by
  induction w with
  | zero => simp [plotRow]
  | succ w ih =>
    simp only [plotRow, plot, Bool.or_eq_true, Bool.and_eq_true, ih (by omega)]
    have hcol := (column_iff px0 w (by omega) (Fin.ofNat 64 (px0.toNat + w))).1 rfl
    have hrow := (row_iff py0 r hr (Fin.ofNat 32 (py0.toNat + r))).1 rfl
    rw [pixel_plotRow _ _ _ _ hr _ _ (by omega), hcol]
    simp only [Nat.lt_irrefl, false_and, decide_false, Bool.false_and, Bool.xor_false]
    constructor
    · rintro (⟨x, y, h1, h2, h3, h4⟩ | ⟨h3, h4⟩)
      · exact ⟨x, y, by omega, h2, h3, h4⟩
      · exact ⟨_, _, by omega, hrow, h3, by rw [hcol]; exact h4⟩
    · rintro ⟨x, y, h1, h2, h3, h4⟩
      by_cases hx : spriteColumn px0 x = w
      · have hx' := (column_iff px0 w (by omega) x).2 hx
        have hy' := (row_iff py0 r hr y).2 h2
        exact .inr ⟨by rw [← hx', ← hy']; exact h3, by rw [← hx]; exact h4⟩
      · exact .inl ⟨x, y, by omega, h2, h3, h4⟩

/-- The collision of a draw (R165 (b)): some pixel was 1 before the draw under a sprite bit 1. -/
theorem collision_plotRows (px0 py0 : Byte) (w : Nat) (bits : Nat → Nat → Bool) (hw : w ≤ 64) (fb : Framebuffer)
    (h : Nat) (hh : h ≤ 32) :
    (plotRows px0 py0 w bits h fb).2 = true ↔
      ∃ (x : Fin 64) (y : Fin 32), spriteColumn px0 x < w ∧ spriteRow py0 y < h ∧ fb.pixel x y = true ∧
        bits (spriteRow py0 y) (spriteColumn px0 x) = true := by
  induction h with
  | zero => simp [plotRows]
  | succ h ih =>
    simp only [plotRows, Bool.or_eq_true, ih (by omega), collision_plotRow _ _ _ _ (show h < 32 by omega) _ _ hw]
    constructor
    · rintro (⟨x, y, h1, h2, h3, h4⟩ | ⟨x, y, h1, h2, h3, h4⟩)
      · exact ⟨x, y, h1, by omega, h3, h4⟩
      · rw [pixel_plotRows _ _ _ _ hw _ _ (by omega)] at h3
        refine ⟨x, y, h1, by omega, ?_, by rw [h2]; exact h4⟩
        simpa [h2] using h3
    · rintro ⟨x, y, h1, h2, h3, h4⟩
      by_cases hy : spriteRow py0 y = h
      · refine .inr ⟨x, y, h1, hy, ?_, by rw [← hy]; exact h4⟩
        rw [pixel_plotRows _ _ _ _ hw _ _ (by omega)]
        simpa [hy] using h3
      · exact .inl ⟨x, y, h1, by omega, h3, h4⟩

end Sys2Proof.Machine
end

