-- ==== Sys2Proof/Laws/Ops.lean ====
section
/-! SUPPORT. What each shared operation can do, said once: flags, indices, raising, fetching and the step, the block
transfers, a draw, and the two outcomes of each instruction that can fault. -/

namespace Sys2Proof.Machine

/-! ### Flags and timers -/

theorem toNat_flagByte (f : Bool) : (flagByte f).toNat = if f then 1 else 0 := by cases f <;> rfl

theorem flagByte_zero_or_one (f : Bool) : flagByte f = 0 ∨ flagByte f = 1 := by cases f <;> simp [flagByte]

theorem flagByte_eq_one (f : Bool) : flagByte f = 1 ↔ f = true := by cases f <;> simp [flagByte]

theorem toNat_countDown (t : Byte) : (countDown t).toNat = t.toNat - 1 := by
  unfold countDown
  split <;> rename_i h
  · simp [h]
  · have : t.toNat ≠ 0 := fun h' => h (BitVec.eq_of_toNat_eq h')
    have := t.isLt
    rw [BitVec.toNat_sub, show (1 : Byte).toNat = 1 from rfl]
    omega

/-! ### Indices -/

theorem keyIndex_of_le (a : Byte) (h : a.toNat ≤ 15) : keyIndex a = some (BitVec.ofNat 4 a.toNat) :=
  if_neg (by omega)

theorem keyIndex_of_gt (a : Byte) (h : a.toNat > 15) : keyIndex a = none := if_pos h

theorem glyphIndex_of_le (i : Word) (h : i.toNat ≤ 15) : glyphIndex i = some (Fin.ofNat 16 i.toNat) :=
  if_neg (by omega)

theorem glyphIndex_of_gt (i : Word) (h : i.toNat > 15) : glyphIndex i = none := if_pos h

theorem State.oob_of_le (s : State) (n : Nat) (h : n = 0 ∨ s.i.toNat + n ≤ 0x1000) : s.oob n = none :=
  (s.oob_eq_none n).2 h

theorem State.oob_of_gt (s : State) (n : Nat) (h1 : 1 ≤ n) (h : s.i.toNat + n > 0x1000) :
    s.oob n = some (max s.i.toNat 0x1000) :=
  (s.oob_eq_some n _).2 ⟨⟨h1, by omega⟩, rfl⟩

/-! ### Raising: whatever answers, it is the state with its fault record set -/

theorem raise_eq (c : FaultCode) (op : Word) (a : Nat) (s t : State) (h : raise c op a s = .next t) :
    t = { s with fault := { code := c, pc := s.pc, opcode := op, addr := BitVec.ofNat 17 a } } := by
  cases h; rfl

/-! ### Fetching and the step (R200) -/

theorem State.faulted_eq_false (s : State) : s.faulted = false ↔ s.fault.code = .none := by
  simp [State.faulted]

@[simp] theorem State.fetch_tick (s : State) : s.tick.fetch = s.fetch := rfl

theorem State.fetch_of_le (s : State) (h : s.pc.toNat ≤ 0xFFE) :
    s.fetch = some (wordOfBytes (s.mem.read s.pc.toNat) (s.mem.read (s.pc.toNat + 1))) := if_neg (by omega)

theorem State.fetch_of_gt (s : State) (h : s.pc.toNat > 0xFFE) : s.fetch = none := if_pos h

theorem State.fetch_some_le (s : State) (op : Word) (h : s.fetch = some op) : s.pc.toNat ≤ 0xFFE := by
  unfold State.fetch at h
  split at h
  · cases h
  · omega

theorem step_of_faulted (s : State) (h : s.fault.code ≠ .none) : step s = .next s := by
  simp [step, State.faulted, h]

theorem step_of_fetchOob (s : State) (h : s.fault.code = .none) (hf : s.fetch = none) :
    step s = raise .fetchOob 0 s.pc.toNat s.tick := by
  simp [step, State.faulted, h, hf]

theorem step_of_fetch (s : State) (op : Word) (h : s.fault.code = .none) (hf : s.fetch = some op) :
    step s = exec (decode op) s.tick := by
  simp [step, State.faulted, h, hf]

/-- Everything a step can be: nothing, a fetch fault, or the fetched instruction. -/
theorem step_cases (s : State) :
    (s.fault.code ≠ .none ∧ step s = .next s) ∨
    (s.fault.code = .none ∧ s.fetch = none ∧ step s = raise .fetchOob 0 s.pc.toNat s.tick) ∨
    (s.fault.code = .none ∧ ∃ op, s.fetch = some op ∧ step s = exec (decode op) s.tick) := by
  by_cases h : s.fault.code = .none
  · cases hf : s.fetch with
    | none => exact .inr (.inl ⟨h, rfl, step_of_fetchOob s h hf⟩)
    | some op => exact .inr (.inr ⟨h, op, rfl, step_of_fetch s op h hf⟩)
  · exact .inl ⟨h, step_of_faulted s h⟩

/-! ### Block transfers: the fields they leave alone -/

theorem State.storeRegs_eq (s : State) (n : Nat) : s.storeRegs n = { s with mem := (s.storeRegs n).mem } := by
  induction n with
  | zero => rfl
  | succ n ih => rw [State.storeRegs, ih]; rfl

theorem State.loadRegs_eq (s : State) (n : Nat) : s.loadRegs n = { s with v := (s.loadRegs n).v } := by
  induction n with
  | zero => rfl
  | succ n ih => rw [State.loadRegs, ih]; rfl

/-! ### A draw -/

theorem State.drawSprite_eq (s : State) (px0 py0 : Byte) (w h : Nat) (bits : Nat → Nat → Bool) :
    s.drawSprite px0 py0 w h bits = { s with
      v := s.v.set 15 (flagByte (plotRows px0 py0 w bits h s.fb).2)
      fb := (plotRows px0 py0 w bits h s.fb).1
      pc := s.pc + 2 } := rfl

variable (s : State) (px0 py0 : Byte) (w h : Nat) (bits : Nat → Nat → Bool)

@[simp] theorem State.drawSprite_pc : (s.drawSprite px0 py0 w h bits).pc = s.pc + 2 := rfl
@[simp] theorem State.drawSprite_fb : (s.drawSprite px0 py0 w h bits).fb = (plotRows px0 py0 w bits h s.fb).1 := rfl
@[simp] theorem State.drawSprite_i : (s.drawSprite px0 py0 w h bits).i = s.i := rfl
@[simp] theorem State.drawSprite_stack : (s.drawSprite px0 py0 w h bits).stack = s.stack := rfl
@[simp] theorem State.drawSprite_sp : (s.drawSprite px0 py0 w h bits).sp = s.sp := rfl
@[simp] theorem State.drawSprite_dt : (s.drawSprite px0 py0 w h bits).dt = s.dt := rfl
@[simp] theorem State.drawSprite_st : (s.drawSprite px0 py0 w h bits).st = s.st := rfl
@[simp] theorem State.drawSprite_key : (s.drawSprite px0 py0 w h bits).key = s.key := rfl
@[simp] theorem State.drawSprite_drawFont : (s.drawSprite px0 py0 w h bits).drawFont = s.drawFont := rfl
@[simp] theorem State.drawSprite_mem : (s.drawSprite px0 py0 w h bits).mem = s.mem := rfl
@[simp] theorem State.drawSprite_fault : (s.drawSprite px0 py0 w h bits).fault = s.fault := rfl
@[simp] theorem State.drawSprite_draws : (s.drawSprite px0 py0 w h bits).draws = s.draws := rfl

/-- A draw changes VF, the display and pc, and nothing else. -/
theorem State.drawSprite_frame :
    { s.drawSprite px0 py0 w h bits with v := s.v, fb := s.fb, pc := s.pc } = s := rfl

theorem State.reg_drawSprite (r : Nibble) :
    (s.drawSprite px0 py0 w h bits).reg r =
      if r = 0xF then flagByte (plotRows px0 py0 w bits h s.fb).2 else s.reg r := by
  simp only [State.drawSprite, State.advance_reg, State.reg_setFlag, State.setFb_reg]

/-! ### The instructions that can fault: each completes or raises -/

theorem execCall_ok (nnn : Addr12) (s : State) (h : s.sp.val < 16) :
    execCall nnn s = .next ((s.push (s.pc + 2)).setPc (nnn.zeroExtend 16)) := if_neg (by omega)

theorem execCall_fault (nnn : Addr12) (s : State) (h : s.sp.val = 16) :
    execCall nnn s = raise .stackOverflow (encode (.call nnn)) 16 s := by simp [execCall, h]

theorem execRet_ok (b1 : Nibble) (s : State) (h : s.sp.val ≠ 0) :
    execRet b1 s = .next (s.pop.2.setPc s.pop.1) := if_neg h

theorem execRet_fault (b1 : Nibble) (s : State) (h : s.sp.val = 0) :
    execRet b1 s = raise .stackUnderflow (encode (.ret b1)) 0 s := by simp [execRet, h]

theorem execSkp_ok (x : Nibble) (s : State) (h : (s.reg x).toNat ≤ 15) :
    execSkp x s = .next (s.skipIf (s.keyAt (BitVec.ofNat 4 (s.reg x).toNat))) := by
  simp only [execSkp, keyIndex_of_le _ h]

theorem execSkp_fault (x : Nibble) (s : State) (h : (s.reg x).toNat > 15) :
    execSkp x s = raise .keyIndexOob (encode (.skp x)) (s.reg x).toNat s := by
  simp only [execSkp, keyIndex_of_gt _ h]

theorem execSknp_ok (x : Nibble) (s : State) (h : (s.reg x).toNat ≤ 15) :
    execSknp x s = .next (s.skipIf (!s.keyAt (BitVec.ofNat 4 (s.reg x).toNat))) := by
  simp only [execSknp, keyIndex_of_le _ h]

theorem execSknp_fault (x : Nibble) (s : State) (h : (s.reg x).toNat > 15) :
    execSknp x s = raise .keyIndexOob (encode (.sknp x)) (s.reg x).toNat s := by
  simp only [execSknp, keyIndex_of_gt _ h]

theorem execLdBVx_ok (x : Nibble) (s : State) (h : s.i.toNat + 2 ≤ 0xFFF) :
    execLdBVx x s =
      .next (((s.writeByte (s.ea 0) (bcdHundreds (s.reg x))).writeByte (s.ea 1) (bcdTens (s.reg x))).writeByte (s.ea 2)
        (bcdOnes (s.reg x))).advance := by
  simp only [execLdBVx, s.oob_of_le 3 (by omega)]

theorem execLdBVx_fault (x : Nibble) (s : State) (h : s.i.toNat + 2 > 0xFFF) :
    execLdBVx x s = raise .memWriteOob (encode (.ldBVx x)) (max s.i.toNat 0x1000) s := by
  simp only [execLdBVx, s.oob_of_gt 3 (by omega) (by omega)]

theorem execLdMiVx_ok (x : Nibble) (s : State) (h : x.toNat = 0 ∨ s.i.toNat + x.toNat - 1 ≤ 0xFFF) :
    execLdMiVx x s = .next (s.storeRegs x.toNat).advance := by
  simp only [execLdMiVx, s.oob_of_le x.toNat (by omega)]

theorem execLdMiVx_fault (x : Nibble) (s : State) (hx : x.toNat ≠ 0) (h : s.i.toNat + x.toNat - 1 > 0xFFF) :
    execLdMiVx x s = raise .memWriteOob (encode (.ldMiVx x)) (max s.i.toNat 0x1000) s := by
  simp only [execLdMiVx, s.oob_of_gt x.toNat (by omega) (by omega)]

theorem execLdVxMi_ok (x : Nibble) (s : State) (h : x.toNat = 0 ∨ s.i.toNat + x.toNat - 1 ≤ 0xFFF) :
    execLdVxMi x s = .next (s.loadRegs x.toNat).advance := by
  simp only [execLdVxMi, s.oob_of_le x.toNat (by omega)]

theorem execLdVxMi_fault (x : Nibble) (s : State) (hx : x.toNat ≠ 0) (h : s.i.toNat + x.toNat - 1 > 0xFFF) :
    execLdVxMi x s = raise .memReadOob (encode (.ldVxMi x)) (max s.i.toNat 0x1000) s := by
  simp only [execLdVxMi, s.oob_of_gt x.toNat (by omega) (by omega)]

theorem execDrw_standard_ok (x y n : Nibble) (s : State) (hm : s.drawFont = false)
    (h : n.toNat = 0 ∨ s.i.toNat + n.toNat - 1 ≤ 0xFFF) :
    execDrw x y n s = .next (s.drawSprite (s.reg x) (s.reg y) 8 n.toNat s.spriteBits) := by
  simp only [execDrw, hm, Bool.false_eq_true, if_false, standardDraw, s.oob_of_le n.toNat (by omega)]

theorem execDrw_standard_fault (x y n : Nibble) (s : State) (hm : s.drawFont = false) (hn : n.toNat ≠ 0)
    (h : s.i.toNat + n.toNat - 1 > 0xFFF) :
    execDrw x y n s = raise .memReadOob (encode (.drw x y n)) (max s.i.toNat 0x1000) s := by
  simp only [execDrw, hm, Bool.false_eq_true, if_false, standardDraw, s.oob_of_gt n.toNat (by omega) (by omega)]

theorem execDrw_font_ok (x y n : Nibble) (s : State) (hm : s.drawFont = true) (h : s.i.toNat ≤ 15) :
    execDrw x y n s = .next (s.drawSprite (s.reg x) (s.reg y) 4 5 (glyphBit (Fin.ofNat 16 s.i.toNat))) := by
  simp only [execDrw, hm, if_true, fontDraw, glyphIndex_of_le _ h]

theorem execDrw_font_fault (x y n : Nibble) (s : State) (hm : s.drawFont = true) (h : s.i.toNat > 15) :
    execDrw x y n s = raise .glyphIndexOob (encode (.drw x y n)) s.i.toNat s := by
  simp only [execDrw, hm, if_true, fontDraw, glyphIndex_of_gt _ h]

end Sys2Proof.Machine
end

