-- ==== Sys2Proof/Laws/Exec.lean ====
section
/-! SUPPORT. What executing an instruction can do, said once: it answers a next state, by completing or by raising the
fault of the table (R203), and it changes no field but those listed for it. -/

namespace Sys2Proof.Machine

theorem next_inj {s t : State} (h : (Host.Outcome.next s : Result) = .next t) : t = s := by cases h; rfl

theorem faultTable_tick (i : Instr) (s : State) : faultTable s.tick i = faultTable s i := by cases i <;> rfl

/-- The timer rule as R28, R29 spell it -/
theorem countDown_eq (t : Byte) : (if t.toNat > 0 then t - 1 else t) = countDown t := by
  unfold countDown
  by_cases h : t = 0
  · simp [h]
  · have : t.toNat ≠ 0 := fun h' => h (BitVec.eq_of_toNat_eq h')
    rw [if_pos (by omega), if_neg h]

/-- A well-formed instruction completes, or raises the fault the table gives it. -/
theorem exec_completes_or_raises (i : Instr) (s : State) (hw : i.wf = true) :
    (faultTable s i = none ∧ ∃ t, exec i s = .next t ∧ t.fault = s.fault) ∨
    (∃ c a, faultTable s i = some (c, a) ∧ c ≠ .none ∧ exec i s = raise c (encode i) a s) := by
  cases i
  case ret b1 =>
    by_cases h : s.sp.val = 0
    · exact .inr ⟨_, _, by simp [faultTable, h], by simp, execRet_fault b1 s h⟩
    · exact .inl ⟨by simp [faultTable, h], _, execRet_ok b1 s h, by simp⟩
  case call nnn =>
    by_cases h : s.sp.val = 16
    · exact .inr ⟨_, _, by simp [faultTable, h], by simp, execCall_fault nnn s h⟩
    · exact .inl ⟨by simp [faultTable, h], _, execCall_ok nnn s (by omega), by simp⟩
  case skp x =>
    by_cases h : (s.reg x).toNat > 15
    · exact .inr ⟨_, _, if_pos h, by simp, execSkp_fault x s h⟩
    · exact .inl ⟨if_neg h, _, execSkp_ok x s (by omega), rfl⟩
  case sknp x =>
    by_cases h : (s.reg x).toNat > 15
    · exact .inr ⟨_, _, if_pos h, by simp, execSknp_fault x s h⟩
    · exact .inl ⟨if_neg h, _, execSknp_ok x s (by omega), rfl⟩
  case ldBVx x =>
    by_cases h : s.i.toNat + 2 > 0xFFF
    · exact .inr ⟨_, _, if_pos h, by simp, execLdBVx_fault x s h⟩
    · exact .inl ⟨if_neg h, _, execLdBVx_ok x s (by omega), rfl⟩
  case ldMiVx x =>
    by_cases h : x.toNat ≥ 1 ∧ s.i.toNat + x.toNat - 1 > 0xFFF
    · exact .inr ⟨_, _, if_pos h, by simp, execLdMiVx_fault x s (by omega) h.2⟩
    · exact .inl ⟨if_neg h, _, execLdMiVx_ok x s (by omega), by rw [State.storeRegs_eq]; rfl⟩
  case ldVxMi x =>
    by_cases h : x.toNat ≥ 1 ∧ s.i.toNat + x.toNat - 1 > 0xFFF
    · exact .inr ⟨_, _, if_pos h, by simp, execLdVxMi_fault x s (by omega) h.2⟩
    · exact .inl ⟨if_neg h, _, execLdVxMi_ok x s (by omega), by rw [State.loadRegs_eq]; rfl⟩
  case drw x y n =>
    have hn : n.toNat ≠ 0 := fun h => by simp [Instr.wf, BitVec.eq_of_toNat_eq (y := 0#4) h] at hw
    cases hm : s.drawFont
    · by_cases h : s.i.toNat + n.toNat - 1 > 0xFFF
      · exact .inr ⟨_, _, by simp only [faultTable, hm]; exact if_pos h, by simp,
          execDrw_standard_fault x y n s hm hn h⟩
      · exact .inl ⟨by simp only [faultTable, hm]; exact if_neg h, _,
          execDrw_standard_ok x y n s hm (by omega), by simp⟩
    · by_cases h : s.i.toNat > 15
      · exact .inr ⟨_, _, by simp only [faultTable, hm]; exact if_pos h, by simp, execDrw_font_fault x y n s hm h⟩
      · exact .inl ⟨by simp only [faultTable, hm]; exact if_neg h, _,
          execDrw_font_ok x y n s hm (by omega), by simp⟩
  all_goals exact .inl ⟨rfl, _, rfl, rfl⟩

/-- The fields an instruction may write are listed here; t agrees with s in all the others. -/
def FieldsWritten (s t : State) : Instr → Prop
  | .ldVxKk _ _ | .addVxKk _ _ | .ldVxVy _ _ | .orVxVy _ _ | .andVxVy _ _ | .xorVxVy _ _ | .addVxVy _ _
  | .subVxVy _ _ | .shr _ _ | .subnVxVy _ _ | .shl _ _ | .ldVxDt _ => { t with v := s.v, pc := s.pc } = s
  | .rnd _ _ => { t with v := s.v, pc := s.pc, draws := s.draws } = s
  | .cls _ => { t with fb := s.fb, pc := s.pc } = s
  | .drw _ _ _ => { t with v := s.v, fb := s.fb, pc := s.pc, fault := s.fault } = s
  | .call _ => { t with pc := s.pc, sp := s.sp, stack := s.stack, fault := s.fault } = s
  | .ret _ => { t with pc := s.pc, sp := s.sp, fault := s.fault } = s
  | .skp _ | .sknp _ => { t with pc := s.pc, fault := s.fault } = s
  | .ldDtVx _ => { t with dt := s.dt, pc := s.pc } = s
  | .ldStVx _ => { t with st := s.st, pc := s.pc } = s
  | .ldI _ | .ldFVx _ => { t with i := s.i, drawFont := s.drawFont, pc := s.pc } = s
  | .addIVx _ => { t with i := s.i, pc := s.pc } = s
  | .ldBVx _ | .ldMiVx _ => { t with mem := s.mem, pc := s.pc, fault := s.fault } = s
  | .ldVxMi _ => { t with v := s.v, pc := s.pc, fault := s.fault } = s
  | .seVxKk _ _ | .sneVxKk _ _ | .seVxVy _ _ _ | .sneVxVy _ _ _ | .jp _ | .jpV0 _ | .scd _ _ | .scr _ | .scl _
  | .low _ | .high _ | .drwExt _ _ | .ldVxK _ | .ldHfVx _ | .unknown _ => { t with pc := s.pc } = s

/-- Executing any instruction, well-formed or not, leaves alone every field not listed for it. -/
theorem exec_frame (i : Instr) (s t : State) (h : exec i s = .next t) : FieldsWritten s t i := by
  cases i
  case ret b1 => change execRet _ _ = _ at h; unfold execRet at h; split at h <;> cases h <;> rfl
  case call nnn =>
    change execCall _ _ = _ at h; unfold execCall at h
    split at h <;> cases h
    · rfl
    · simp [FieldsWritten]
  case skp x => change execSkp _ _ = _ at h; unfold execSkp at h; split at h <;> cases h <;> rfl
  case sknp x => change execSknp _ _ = _ at h; unfold execSknp at h; split at h <;> cases h <;> rfl
  case ldBVx x => change execLdBVx _ _ = _ at h; unfold execLdBVx at h; split at h <;> cases h <;> rfl
  case ldMiVx x =>
    change execLdMiVx _ _ = _ at h; unfold execLdMiVx at h
    split at h <;> cases h
    · rfl
    · rw [State.storeRegs_eq]; rfl
  case ldVxMi x =>
    change execLdVxMi _ _ = _ at h; unfold execLdVxMi at h
    split at h <;> cases h
    · rfl
    · rw [State.loadRegs_eq]; rfl
  case drw x y n =>
    change execDrw _ _ _ _ = _ at h; unfold execDrw fontDraw standardDraw at h
    split at h <;> split at h <;> have h := next_inj h <;> subst h
    · rfl
    · rw [FieldsWritten, State.drawSprite_eq]
    · rfl
    · rw [FieldsWritten, State.drawSprite_eq]
  all_goals cases h; rfl

end Sys2Proof.Machine
end

