-- ==== Sys2Proof/Laws/HostOps.lean ====
section
/-! SUPPORT. What each host operation can do, said once. -/

namespace Sys2Proof.Machine

theorem State.hostReset_eq (s : State) : s.hostReset = { State.reset with draws := s.draws } := rfl

theorem State.loadRom_frame (s : State) (image : RomImage) : { (s.loadRom image).1 with mem := s.mem } = s := by
  cases image <;> rfl

theorem State.loadRom_wf (s : State) (image : RomImage) (h : s.mem.wf) : (s.loadRom image).1.mem.wf := by
  cases image
  · exact Memory.writeBytes_wf _ _ _ h
  · exact h

/-- Which state a host operation leaves: that of a step, of a reset, of a load, of a key event, or the same one. -/
theorem State.apply_cases (s : State) (op : HostOp) (p : State × HostReply) (h : s.apply op = .next p) :
    (op = .step ∧ step s = .next p.1) ∨ (op = .reset ∧ p.1 = s.hostReset) ∨
    (∃ image, op = .loadRom image ∧ p.1 = (s.loadRom image).1) ∨
    (∃ k b, op = .keyEvent k b ∧ p.1 = s.setKey k b) ∨ p.1 = s := by
  cases op with
  | step =>
    simp only [State.apply] at h
    split at h <;> cases h
    exact .inl ⟨rfl, ‹_›⟩
  | reset => cases h; exact .inr (.inl ⟨rfl, rfl⟩)
  | loadRom image => cases h; exact .inr (.inr (.inl ⟨image, rfl, rfl⟩))
  | keyEvent k b => cases h; exact .inr (.inr (.inr (.inl ⟨k, b, rfl, rfl⟩)))
  | fbRead x y => cases h; exact .inr (.inr (.inr (.inr rfl)))
  | faultStatus => cases h; exact .inr (.inr (.inr (.inr rfl)))

end Sys2Proof.Machine
end

