-- ==== Sys2Proof/Laws/PerInstr.lean ====
section
/-! SUPPORT. Statements made of every instruction, one lemma per constructor. RowMatch: the word of a well-formed
instruction matches the opcode table's row of its identifier (R74, R78): encoder and table agree, bit by bit. -/

namespace Sys2Proof.Laws.RowMatch

/-- Some row of the table bears the instruction's identifier, and the instruction's word matches it. -/
def Statement (i : Instr) : Prop :=
  i.wf = true → ∃ r ∈ opcodeRows, r.id = i.id ∧ encode i &&& r.mask = r.value

/-- A nibble the row leaves open, or fixes at the value `b`. -/
def NibbleOk (b m v : Nibble) : Prop := (m = 0x0 ∧ v = 0x0) ∨ (m = 0xF ∧ b = v)

theorem NibbleOk.and_eq {b m v : Nibble} (h : NibbleOk b m v) : b &&& m = v := by
  rcases h with ⟨rfl, rfl⟩ | ⟨rfl, rfl⟩
  · exact BitVec.and_zero
  · exact BitVec.and_allOnes

theorem of_nibbles (i : Instr) (r : Row) (hr : r ∈ opcodeRows) (hid : r.id = i.id)
    (h0 : NibbleOk (nib0 (encode i)) (nib0 r.mask) (nib0 r.value))
    (h1 : NibbleOk (nib1 (encode i)) (nib1 r.mask) (nib1 r.value))
    (h2 : NibbleOk (nib2 (encode i)) (nib2 r.mask) (nib2 r.value))
    (h3 : NibbleOk (nib3 (encode i)) (nib3 r.mask) (nib3 r.value)) : Statement i :=
  fun _ => ⟨r, hr, hid, (and_eq_iff _ _ _).2 ⟨h0.and_eq, h1.and_eq, h2.and_eq, h3.and_eq⟩⟩

theorem scd (b1 n : Nibble) : Statement (.scd b1 n) :=
  of_nibbles _ ⟨.scd, 0xF0F0, 0x00C0, 1⟩ (by decide) rfl
    (.inr ⟨rfl, nib0_catNibbles ..⟩) (.inl ⟨rfl, rfl⟩) (.inr ⟨rfl, nib2_catNibbles ..⟩) (.inl ⟨rfl, rfl⟩)
theorem cls (b1 : Nibble) : Statement (.cls b1) :=
  of_nibbles _ ⟨.cls, 0xF0FF, 0x00E0, 1⟩ (by decide) rfl
    (.inr ⟨rfl, nib0_catNibbles ..⟩) (.inl ⟨rfl, rfl⟩) (.inr ⟨rfl, nib2_catNibbles ..⟩) (.inr ⟨rfl, nib3_catNibbles ..⟩)
theorem ret (b1 : Nibble) : Statement (.ret b1) :=
  of_nibbles _ ⟨.ret, 0xF0FF, 0x00EE, 1⟩ (by decide) rfl
    (.inr ⟨rfl, nib0_catNibbles ..⟩) (.inl ⟨rfl, rfl⟩) (.inr ⟨rfl, nib2_catNibbles ..⟩) (.inr ⟨rfl, nib3_catNibbles ..⟩)
theorem scr (b1 : Nibble) : Statement (.scr b1) :=
  of_nibbles _ ⟨.scr, 0xF0FF, 0x00FB, 1⟩ (by decide) rfl
    (.inr ⟨rfl, nib0_catNibbles ..⟩) (.inl ⟨rfl, rfl⟩) (.inr ⟨rfl, nib2_catNibbles ..⟩) (.inr ⟨rfl, nib3_catNibbles ..⟩)
theorem scl (b1 : Nibble) : Statement (.scl b1) :=
  of_nibbles _ ⟨.scl, 0xF0FF, 0x00FC, 1⟩ (by decide) rfl
    (.inr ⟨rfl, nib0_catNibbles ..⟩) (.inl ⟨rfl, rfl⟩) (.inr ⟨rfl, nib2_catNibbles ..⟩) (.inr ⟨rfl, nib3_catNibbles ..⟩)
theorem low (b1 : Nibble) : Statement (.low b1) :=
  of_nibbles _ ⟨.low, 0xF0FF, 0x00FE, 1⟩ (by decide) rfl
    (.inr ⟨rfl, nib0_catNibbles ..⟩) (.inl ⟨rfl, rfl⟩) (.inr ⟨rfl, nib2_catNibbles ..⟩) (.inr ⟨rfl, nib3_catNibbles ..⟩)
theorem high (b1 : Nibble) : Statement (.high b1) :=
  of_nibbles _ ⟨.high, 0xF0FF, 0x00FF, 1⟩ (by decide) rfl
    (.inr ⟨rfl, nib0_catNibbles ..⟩) (.inl ⟨rfl, rfl⟩) (.inr ⟨rfl, nib2_catNibbles ..⟩) (.inr ⟨rfl, nib3_catNibbles ..⟩)
theorem jp (nnn : Addr12) : Statement (.jp nnn) :=
  of_nibbles _ ⟨.jp, 0xF000, 0x1000, 1⟩ (by decide) rfl
    (.inr ⟨rfl, nib0_catAddr ..⟩) (.inl ⟨rfl, rfl⟩) (.inl ⟨rfl, rfl⟩) (.inl ⟨rfl, rfl⟩)
theorem call (nnn : Addr12) : Statement (.call nnn) :=
  of_nibbles _ ⟨.call, 0xF000, 0x2000, 1⟩ (by decide) rfl
    (.inr ⟨rfl, nib0_catAddr ..⟩) (.inl ⟨rfl, rfl⟩) (.inl ⟨rfl, rfl⟩) (.inl ⟨rfl, rfl⟩)
theorem seVxKk (x : Nibble) (kk : Byte) : Statement (.seVxKk x kk) :=
  of_nibbles _ ⟨.seVxKk, 0xF000, 0x3000, 1⟩ (by decide) rfl
    (.inr ⟨rfl, nib0_catByte ..⟩) (.inl ⟨rfl, rfl⟩) (.inl ⟨rfl, rfl⟩) (.inl ⟨rfl, rfl⟩)
theorem sneVxKk (x : Nibble) (kk : Byte) : Statement (.sneVxKk x kk) :=
  of_nibbles _ ⟨.sneVxKk, 0xF000, 0x4000, 1⟩ (by decide) rfl
    (.inr ⟨rfl, nib0_catByte ..⟩) (.inl ⟨rfl, rfl⟩) (.inl ⟨rfl, rfl⟩) (.inl ⟨rfl, rfl⟩)
theorem seVxVy (x y b3 : Nibble) : Statement (.seVxVy x y b3) :=
  of_nibbles _ ⟨.seVxVy, 0xF000, 0x5000, 1⟩ (by decide) rfl
    (.inr ⟨rfl, nib0_catNibbles ..⟩) (.inl ⟨rfl, rfl⟩) (.inl ⟨rfl, rfl⟩) (.inl ⟨rfl, rfl⟩)
theorem ldVxKk (x : Nibble) (kk : Byte) : Statement (.ldVxKk x kk) :=
  of_nibbles _ ⟨.ldVxKk, 0xF000, 0x6000, 1⟩ (by decide) rfl
    (.inr ⟨rfl, nib0_catByte ..⟩) (.inl ⟨rfl, rfl⟩) (.inl ⟨rfl, rfl⟩) (.inl ⟨rfl, rfl⟩)
theorem addVxKk (x : Nibble) (kk : Byte) : Statement (.addVxKk x kk) :=
  of_nibbles _ ⟨.addVxKk, 0xF000, 0x7000, 1⟩ (by decide) rfl
    (.inr ⟨rfl, nib0_catByte ..⟩) (.inl ⟨rfl, rfl⟩) (.inl ⟨rfl, rfl⟩) (.inl ⟨rfl, rfl⟩)
theorem ldVxVy (x y : Nibble) : Statement (.ldVxVy x y) :=
  of_nibbles _ ⟨.ldVxVy, 0xF00F, 0x8000, 1⟩ (by decide) rfl
    (.inr ⟨rfl, nib0_catNibbles ..⟩) (.inl ⟨rfl, rfl⟩) (.inl ⟨rfl, rfl⟩) (.inr ⟨rfl, nib3_catNibbles ..⟩)
theorem orVxVy (x y : Nibble) : Statement (.orVxVy x y) :=
  of_nibbles _ ⟨.orVxVy, 0xF00F, 0x8001, 1⟩ (by decide) rfl
    (.inr ⟨rfl, nib0_catNibbles ..⟩) (.inl ⟨rfl, rfl⟩) (.inl ⟨rfl, rfl⟩) (.inr ⟨rfl, nib3_catNibbles ..⟩)
theorem andVxVy (x y : Nibble) : Statement (.andVxVy x y) :=
  of_nibbles _ ⟨.andVxVy, 0xF00F, 0x8002, 1⟩ (by decide) rfl
    (.inr ⟨rfl, nib0_catNibbles ..⟩) (.inl ⟨rfl, rfl⟩) (.inl ⟨rfl, rfl⟩) (.inr ⟨rfl, nib3_catNibbles ..⟩)
theorem xorVxVy (x y : Nibble) : Statement (.xorVxVy x y) :=
  of_nibbles _ ⟨.xorVxVy, 0xF00F, 0x8003, 1⟩ (by decide) rfl
    (.inr ⟨rfl, nib0_catNibbles ..⟩) (.inl ⟨rfl, rfl⟩) (.inl ⟨rfl, rfl⟩) (.inr ⟨rfl, nib3_catNibbles ..⟩)
theorem addVxVy (x y : Nibble) : Statement (.addVxVy x y) :=
  of_nibbles _ ⟨.addVxVy, 0xF00F, 0x8004, 1⟩ (by decide) rfl
    (.inr ⟨rfl, nib0_catNibbles ..⟩) (.inl ⟨rfl, rfl⟩) (.inl ⟨rfl, rfl⟩) (.inr ⟨rfl, nib3_catNibbles ..⟩)
theorem subVxVy (x y : Nibble) : Statement (.subVxVy x y) :=
  of_nibbles _ ⟨.subVxVy, 0xF00F, 0x8005, 1⟩ (by decide) rfl
    (.inr ⟨rfl, nib0_catNibbles ..⟩) (.inl ⟨rfl, rfl⟩) (.inl ⟨rfl, rfl⟩) (.inr ⟨rfl, nib3_catNibbles ..⟩)
theorem shr (x y : Nibble) : Statement (.shr x y) :=
  of_nibbles _ ⟨.shr, 0xF00F, 0x8006, 1⟩ (by decide) rfl
    (.inr ⟨rfl, nib0_catNibbles ..⟩) (.inl ⟨rfl, rfl⟩) (.inl ⟨rfl, rfl⟩) (.inr ⟨rfl, nib3_catNibbles ..⟩)
theorem subnVxVy (x y : Nibble) : Statement (.subnVxVy x y) :=
  of_nibbles _ ⟨.subnVxVy, 0xF00F, 0x8007, 1⟩ (by decide) rfl
    (.inr ⟨rfl, nib0_catNibbles ..⟩) (.inl ⟨rfl, rfl⟩) (.inl ⟨rfl, rfl⟩) (.inr ⟨rfl, nib3_catNibbles ..⟩)
theorem shl (x y : Nibble) : Statement (.shl x y) :=
  of_nibbles _ ⟨.shl, 0xF00F, 0x800E, 1⟩ (by decide) rfl
    (.inr ⟨rfl, nib0_catNibbles ..⟩) (.inl ⟨rfl, rfl⟩) (.inl ⟨rfl, rfl⟩) (.inr ⟨rfl, nib3_catNibbles ..⟩)
theorem sneVxVy (x y b3 : Nibble) : Statement (.sneVxVy x y b3) :=
  of_nibbles _ ⟨.sneVxVy, 0xF000, 0x9000, 1⟩ (by decide) rfl
    (.inr ⟨rfl, nib0_catNibbles ..⟩) (.inl ⟨rfl, rfl⟩) (.inl ⟨rfl, rfl⟩) (.inl ⟨rfl, rfl⟩)
theorem ldI (nnn : Addr12) : Statement (.ldI nnn) :=
  of_nibbles _ ⟨.ldI, 0xF000, 0xA000, 1⟩ (by decide) rfl
    (.inr ⟨rfl, nib0_catAddr ..⟩) (.inl ⟨rfl, rfl⟩) (.inl ⟨rfl, rfl⟩) (.inl ⟨rfl, rfl⟩)
theorem jpV0 (nnn : Addr12) : Statement (.jpV0 nnn) :=
  of_nibbles _ ⟨.jpV0, 0xF000, 0xB000, 1⟩ (by decide) rfl
    (.inr ⟨rfl, nib0_catAddr ..⟩) (.inl ⟨rfl, rfl⟩) (.inl ⟨rfl, rfl⟩) (.inl ⟨rfl, rfl⟩)
theorem rnd (x : Nibble) (kk : Byte) : Statement (.rnd x kk) :=
  of_nibbles _ ⟨.rnd, 0xF000, 0xC000, 1⟩ (by decide) rfl
    (.inr ⟨rfl, nib0_catByte ..⟩) (.inl ⟨rfl, rfl⟩) (.inl ⟨rfl, rfl⟩) (.inl ⟨rfl, rfl⟩)
theorem drwExt (x y : Nibble) : Statement (.drwExt x y) :=
  of_nibbles _ ⟨.drwExt, 0xF00F, 0xD000, 1⟩ (by decide) rfl
    (.inr ⟨rfl, nib0_catNibbles ..⟩) (.inl ⟨rfl, rfl⟩) (.inl ⟨rfl, rfl⟩) (.inr ⟨rfl, nib3_catNibbles ..⟩)
theorem drw (x y n : Nibble) : Statement (.drw x y n) :=
  of_nibbles _ ⟨.drw, 0xF000, 0xD000, 2⟩ (by decide) rfl
    (.inr ⟨rfl, nib0_catNibbles ..⟩) (.inl ⟨rfl, rfl⟩) (.inl ⟨rfl, rfl⟩) (.inl ⟨rfl, rfl⟩)
theorem skp (x : Nibble) : Statement (.skp x) :=
  of_nibbles _ ⟨.skp, 0xF0FF, 0xE09E, 1⟩ (by decide) rfl
    (.inr ⟨rfl, nib0_catByte ..⟩) (.inl ⟨rfl, rfl⟩) (.inr ⟨rfl, nib2_catByte ..⟩) (.inr ⟨rfl, nib3_catByte ..⟩)
theorem sknp (x : Nibble) : Statement (.sknp x) :=
  of_nibbles _ ⟨.sknp, 0xF0FF, 0xE0A1, 1⟩ (by decide) rfl
    (.inr ⟨rfl, nib0_catByte ..⟩) (.inl ⟨rfl, rfl⟩) (.inr ⟨rfl, nib2_catByte ..⟩) (.inr ⟨rfl, nib3_catByte ..⟩)
theorem ldVxDt (x : Nibble) : Statement (.ldVxDt x) :=
  of_nibbles _ ⟨.ldVxDt, 0xF0FF, 0xF007, 1⟩ (by decide) rfl
    (.inr ⟨rfl, nib0_catByte ..⟩) (.inl ⟨rfl, rfl⟩) (.inr ⟨rfl, nib2_catByte ..⟩) (.inr ⟨rfl, nib3_catByte ..⟩)
theorem ldVxK (x : Nibble) : Statement (.ldVxK x) :=
  of_nibbles _ ⟨.ldVxK, 0xF0FF, 0xF00A, 1⟩ (by decide) rfl
    (.inr ⟨rfl, nib0_catByte ..⟩) (.inl ⟨rfl, rfl⟩) (.inr ⟨rfl, nib2_catByte ..⟩) (.inr ⟨rfl, nib3_catByte ..⟩)
theorem ldDtVx (x : Nibble) : Statement (.ldDtVx x) :=
  of_nibbles _ ⟨.ldDtVx, 0xF0FF, 0xF015, 1⟩ (by decide) rfl
    (.inr ⟨rfl, nib0_catByte ..⟩) (.inl ⟨rfl, rfl⟩) (.inr ⟨rfl, nib2_catByte ..⟩) (.inr ⟨rfl, nib3_catByte ..⟩)
theorem ldStVx (x : Nibble) : Statement (.ldStVx x) :=
  of_nibbles _ ⟨.ldStVx, 0xF0FF, 0xF018, 1⟩ (by decide) rfl
    (.inr ⟨rfl, nib0_catByte ..⟩) (.inl ⟨rfl, rfl⟩) (.inr ⟨rfl, nib2_catByte ..⟩) (.inr ⟨rfl, nib3_catByte ..⟩)
theorem addIVx (x : Nibble) : Statement (.addIVx x) :=
  of_nibbles _ ⟨.addIVx, 0xF0FF, 0xF01E, 1⟩ (by decide) rfl
    (.inr ⟨rfl, nib0_catByte ..⟩) (.inl ⟨rfl, rfl⟩) (.inr ⟨rfl, nib2_catByte ..⟩) (.inr ⟨rfl, nib3_catByte ..⟩)
theorem ldFVx (x : Nibble) : Statement (.ldFVx x) :=
  of_nibbles _ ⟨.ldFVx, 0xF0FF, 0xF029, 1⟩ (by decide) rfl
    (.inr ⟨rfl, nib0_catByte ..⟩) (.inl ⟨rfl, rfl⟩) (.inr ⟨rfl, nib2_catByte ..⟩) (.inr ⟨rfl, nib3_catByte ..⟩)
theorem ldHfVx (x : Nibble) : Statement (.ldHfVx x) :=
  of_nibbles _ ⟨.ldHfVx, 0xF0FF, 0xF030, 1⟩ (by decide) rfl
    (.inr ⟨rfl, nib0_catByte ..⟩) (.inl ⟨rfl, rfl⟩) (.inr ⟨rfl, nib2_catByte ..⟩) (.inr ⟨rfl, nib3_catByte ..⟩)
theorem ldBVx (x : Nibble) : Statement (.ldBVx x) :=
  of_nibbles _ ⟨.ldBVx, 0xF0FF, 0xF033, 1⟩ (by decide) rfl
    (.inr ⟨rfl, nib0_catByte ..⟩) (.inl ⟨rfl, rfl⟩) (.inr ⟨rfl, nib2_catByte ..⟩) (.inr ⟨rfl, nib3_catByte ..⟩)
theorem ldMiVx (x : Nibble) : Statement (.ldMiVx x) :=
  of_nibbles _ ⟨.ldMiVx, 0xF0FF, 0xF055, 1⟩ (by decide) rfl
    (.inr ⟨rfl, nib0_catByte ..⟩) (.inl ⟨rfl, rfl⟩) (.inr ⟨rfl, nib2_catByte ..⟩) (.inr ⟨rfl, nib3_catByte ..⟩)
theorem ldVxMi (x : Nibble) : Statement (.ldVxMi x) :=
  of_nibbles _ ⟨.ldVxMi, 0xF0FF, 0xF065, 1⟩ (by decide) rfl
    (.inr ⟨rfl, nib0_catByte ..⟩) (.inl ⟨rfl, rfl⟩) (.inr ⟨rfl, nib2_catByte ..⟩) (.inr ⟨rfl, nib3_catByte ..⟩)
theorem unknown (op : Word) : Statement (.unknown op) :=
  of_nibbles _ ⟨.unknown, 0x0000, 0x0000, 9⟩ (by decide) rfl
    (.inl ⟨rfl, rfl⟩) (.inl ⟨rfl, rfl⟩) (.inl ⟨rfl, rfl⟩) (.inl ⟨rfl, rfl⟩)

end Sys2Proof.Laws.RowMatch
end

