-- ==== Sys2Proof/Tests/Slice0.lean ====
section
/-! SUPPORT. Tests: which terms WellFormed refuses, words written out from the encodings of R74, single steps from
spec/95_test_vectors.md (each names its vector), the default font, and for every statement with hypotheses a state and
operands that meet them. Expected results are the spec's; the machine's own answers are nowhere pasted in. -/

namespace Sys2Proof.Tests

open Sys2Proof.Machine

/-! ### Helpers: one step, as the vectors are run -/

/-- The state an outcome answers; a fault or refusal, of which the machine has none, leaves `s`. -/
def stateOr (s : State) : Result → State
  | .next t => t
  | .fault _ => s
  | .refused _ => s

/-- `s` with `op` at pc. -/
def place (op : Word) (s : State) : State := s.withFetchWord 16 op.toNat

/-- `op` placed at pc, and one step. -/
def after (op : Word) (s : State) : State := stateOr s (step (place op s))

/-- The state after reset with a few registers written. -/
def regs : List (Nibble × Byte) → State
  | [] => State.reset
  | (x, b) :: rest => (regs rest).setReg x b

/-- Bytes placed in Memory from an address. -/
def mem (a : Nat) (bs : List Byte) (s : State) : State := { s with mem := s.mem.writeBytes a bs }

/-- Pixels lit. -/
def lit (s : State) : List (Fin 64 × Fin 32) → State
  | [] => s
  | (x, y) :: rest => let t := lit s rest; t.setFb (t.fb.setPixel x y true)

/-! ### WellFormed: an ill-formed term for each check -/

/-- DRW has n in 1..15: Dxy0 is DRW_EXT (R162). -/
theorem test_wf_refuses_drw_of_height_0 : (Instr.drw 1 2 0).wf = false ∧ (Instr.drw 1 2 1).wf = true := by decide

/-- UNKNOWN holds a word no other row matches (R76): 0x00E0 is CLS, 0x00FD is not named. -/
theorem test_wf_refuses_unknown_of_a_named_word :
    (Instr.unknown 0x00E0).wf = false ∧ (Instr.unknown 0x00FD).wf = true := by decide

/-- Bytes that hold no whole instruction are rejected by name (R70: two bytes each). -/
theorem test_decodeBytes_truncated :
    (match decodeBytes [0x60] with | .error .truncated => true | .ok _ => false) = true ∧
    (match decodeBytes [0x60, 0x05, 0x70] with | .error _ => false | .ok p => p == (.ldVxKk 0 5, [0x70])) = true := by
  decide

/-! ### Decoding: words written out nibble by nibble from the patterns of R74 -/

/-- b0 = 0: 0-Cn, 0-E0, 0-EE, 0-FB, 0-FC, 0-FE, 0-FF, b1 not inspected (R73, D3). -/
theorem test_decode_major_0 :
    decode 0b0000_0011_1100_0100 = .scd 3 4 ∧ decode 0b0000_0000_1110_0000 = .cls 0 ∧
    decode 0b0000_0001_1110_1110 = .ret 1 ∧ decode 0b0000_0000_1111_1011 = .scr 0 ∧
    decode 0b0000_0000_1111_1100 = .scl 0 ∧ decode 0b0000_0000_1111_1110 = .low 0 ∧
    decode 0b0000_0000_1111_1111 = .high 0 := by decide

/-- 1nnn, 2nnn, Annn, Bnnn. -/
theorem test_decode_addresses :
    decode 0b0001_1010_1011_1100 = .jp 0xABC ∧ decode 0b0010_0011_0000_0001 = .call 0x301 ∧
    decode 0b1010_0010_1111_0000 = .ldI 0x2F0 ∧ decode 0b1011_1111_1111_1110 = .jpV0 0xFFE := by decide

/-- 3xkk, 4xkk, 5xy-, 9xy-. -/
theorem test_decode_skips :
    decode 0b0011_0011_0010_1010 = .seVxKk 3 0x2A ∧ decode 0b0100_1111_0000_0001 = .sneVxKk 0xF 1 ∧
    decode 0b0101_0001_0010_0111 = .seVxVy 1 2 7 ∧ decode 0b1001_0001_0010_1010 = .sneVxVy 1 2 0xA := by decide

/-- 6xkk, 7xkk, Cxkk and the nine words of major 8. -/
theorem test_decode_alu :
    decode 0b0110_1010_0111_1111 = .ldVxKk 0xA 0x7F ∧ decode 0b0111_0000_0000_0011 = .addVxKk 0 3 ∧
    decode 0b1100_0010_0000_1111 = .rnd 2 0xF ∧ decode 0b1000_0001_0010_0000 = .ldVxVy 1 2 ∧
    decode 0b1000_0001_0010_0001 = .orVxVy 1 2 ∧ decode 0b1000_0001_0010_0010 = .andVxVy 1 2 ∧
    decode 0b1000_0001_0010_0011 = .xorVxVy 1 2 ∧ decode 0b1000_0001_0010_0100 = .addVxVy 1 2 ∧
    decode 0b1000_0001_0010_0101 = .subVxVy 1 2 ∧ decode 0b1000_0001_0010_0110 = .shr 1 2 ∧
    decode 0b1000_0001_0010_0111 = .subnVxVy 1 2 ∧ decode 0b1000_0001_0010_1110 = .shl 1 2 := by decide

/-- Dxy0 and Dxyn. -/
theorem test_decode_draws :
    decode 0b1101_0001_0010_0000 = .drwExt 1 2 ∧ decode 0b1101_0001_0010_0101 = .drw 1 2 5 := by decide

/-- Ex9E, ExA1 and the ten words of major F. -/
theorem test_decode_low_byte_selectors :
    decode 0b1110_0100_1001_1110 = .skp 4 ∧ decode 0b1110_0100_1010_0001 = .sknp 4 ∧
    decode 0b1111_0011_0000_0111 = .ldVxDt 3 ∧ decode 0b1111_0011_0000_1010 = .ldVxK 3 ∧
    decode 0b1111_0011_0001_0101 = .ldDtVx 3 ∧ decode 0b1111_0011_0001_1000 = .ldStVx 3 ∧
    decode 0b1111_0011_0001_1110 = .addIVx 3 ∧ decode 0b1111_0011_0010_1001 = .ldFVx 3 ∧
    decode 0b1111_0011_0011_0000 = .ldHfVx 3 ∧ decode 0b1111_0011_0011_0011 = .ldBVx 3 ∧
    decode 0b1111_0011_0101_0101 = .ldMiVx 3 ∧ decode 0b1111_0011_0110_0101 = .ldVxMi 3 := by decide

/-- A word of each UNKNOWN class of R76. -/
theorem test_decode_unknown :
    decode 0x0000 = .unknown 0x0000 ∧ decode 0x00E1 = .unknown 0x00E1 ∧ decode 0x00FD = .unknown 0x00FD ∧
    decode 0x8128 = .unknown 0x8128 ∧ decode 0xE19F = .unknown 0xE19F ∧ decode 0xF175 = .unknown 0xF175 := by decide

/-- The host's view: bits numbered from the least significant bit of the one word. -/
theorem test_decodeTableWord :
    decodeTableWord 16 0xD125 = some (.drw 1 2 5) ∧ decodeTableWord 16 0x6005 = some (.ldVxKk 0 5) := by decide

/-! ### Single steps: what changed is all that changed -/

/-- T40.1, T40.2 -/
theorem test_seVxKk :
    after 0x332A (regs [(3, 0x2A)]) = { place 0x332A (regs [(3, 0x2A)]) with pc := 0x204 } ∧
    (after 0x332A (regs [(3, 0x2B)])).pc = 0x202 := by decide
/-- T40.13: a skip past the end of Memory does not fault yet. -/
theorem test_seVxKk_at_the_top :
    (after 0x3000 (State.reset.setPc 0xFFE)).pc = 0x1002 ∧
    (after 0x3000 (State.reset.setPc 0xFFE)).fault.code = .none := by decide
/-- T40.3, T40.4 -/
theorem test_sneVxKk :
    (after 0x432A (regs [(3, 0x2A)])).pc = 0x202 ∧ (after 0x4300 (regs [(3, 0x2A)])).pc = 0x204 := by decide
/-- T40.6, T40.7 -/
theorem test_seVxVy :
    (after 0x512F (regs [(1, 7), (2, 7)])).pc = 0x204 ∧ (after 0x5120 (regs [(1, 7), (2, 8)])).pc = 0x202 := by decide
/-- T40.10, T40.11 -/
theorem test_sneVxVy :
    (after 0x9120 (regs [(1, 7), (2, 7)])).pc = 0x202 ∧ (after 0x912A (regs [(1, 7), (2, 8)])).pc = 0x204 := by decide

/-- T41.1 -/
theorem test_ldVxKk : after 0x6A7F State.reset = { place 0x6A7F (regs [(0xA, 0x7F)]) with pc := 0x202 } := by decide
/-- T41.3: wraps, VF untouched. -/
theorem test_addVxKk_wraps :
    after 0x7001 (regs [(0, 0xFF), (0xF, 5)]) = { place 0x7001 (regs [(0, 0), (0xF, 5)]) with pc := 0x202 } := by decide
/-- T41.4: VF as an ordinary destination. -/
theorem test_addVxKk_vf : (after 0x7F02 (regs [(0xF, 0xFF)])).reg 0xF = 1 := by decide
/-- T41.5 -/
theorem test_ldVxVy : (after 0x8120 (regs [(2, 0x5A)])).reg 1 = 0x5A := by decide
/-- T41.6: VF is not reset. -/
theorem test_orVxVy :
    (after 0x8121 (regs [(1, 0xF0), (2, 0x0F), (0xF, 1)])).reg 1 = 0xFF ∧
    (after 0x8121 (regs [(1, 0xF0), (2, 0x0F), (0xF, 1)])).reg 0xF = 1 := by decide
/-- T41.7 -/
theorem test_andVxVy : (after 0x8122 (regs [(1, 0xF0), (2, 0x3C)])).reg 1 = 0x30 := by decide
/-- T41.8 -/
theorem test_xorVxVy : (after 0x8123 (regs [(1, 0xF0), (2, 0x3C)])).reg 1 = 0xCC := by decide
/-- T41.10, T41.11: the sum 255 sets no carry. -/
theorem test_addVxVy :
    after 0x8124 (regs [(1, 0xC8), (2, 0x64)]) =
      { place 0x8124 (regs [(1, 0x2C), (2, 0x64), (0xF, 1)]) with pc := 0x202 } ∧
    (after 0x8124 (regs [(1, 0xF0), (2, 0x0F), (0xF, 1)])).reg 0xF = 0 := by decide
/-- T41.13, T41.14: VF as destination and as second operand. -/
theorem test_addVxVy_vf :
    (after 0x8F14 (regs [(0xF, 0xF0), (1, 0x20)])).reg 0xF = 1 ∧
    (after 0x81F4 (regs [(1, 3), (0xF, 1)])).reg 1 = 4 := by decide
/-- T41.16, T41.18: a borrow, and equal operands, which give 0. -/
theorem test_subVxVy :
    (after 0x8125 (regs [(1, 5), (2, 7)])).reg 1 = 0xFE ∧
    (after 0x8125 (regs [(1, 7), (2, 7), (0xF, 1)])).reg 0xF = 0 := by decide
/-- T41.28: the flag overwrites the difference. -/
theorem test_subVxVy_vf : (after 0x8F15 (regs [(0xF, 9), (1, 3)])).reg 0xF = 1 := by decide
/-- T41.19, T41.21: the flag is written last (C1); y is ignored. -/
theorem test_shr :
    (after 0x8F06 (regs [(0xF, 2)])).reg 0xF = 0 ∧ (after 0x8126 (regs [(1, 4), (2, 0xFF)])).reg 1 = 2 := by decide
/-- T41.22, T41.23 -/
theorem test_shl :
    (after 0x8F0E (regs [(0xF, 0x40)])).reg 0xF = 0 ∧ (after 0x810E (regs [(1, 0x81)])).reg 1 = 2 ∧
    (after 0x810E (regs [(1, 0x81)])).reg 0xF = 1 := by decide
/-- T41.25, T41.26 -/
theorem test_subnVxVy :
    (after 0x8127 (regs [(1, 5), (2, 7)])).reg 1 = 2 ∧ (after 0x8127 (regs [(1, 7), (2, 5)])).reg 1 = 0xFE := by decide
/-- T41.30, T41.31, for whatever value is drawn: V2 takes it, pc moves on, and kk plays no part. -/
theorem test_rnd :
    (after 0xC20F State.reset).pc = 0x202 ∧ (after 0xC20F State.reset).reg 2 = Config.draw8 0 ∧
    (after 0xC200 State.reset).reg 2 = Config.draw8 0 := ⟨by decide, rfl, rfl⟩

/-- T42.1, T42.2: a jump, and a jump to itself. -/
theorem test_jp :
    (after 0x1ABC State.reset).pc = 0xABC ∧ after 0x1200 State.reset = place 0x1200 State.reset := by decide
/-- T42.4: the sixteenth nested call. -/
theorem test_call_sixteenth :
    after 0x2300 { State.reset with sp := 15 } =
      { place 0x2300 State.reset with pc := 0x300, sp := 16, stack := State.reset.stack.set 15 0x202 } := by decide
/-- T42.5: the seventeenth. -/
theorem test_call_overflow :
    after 0x2300 { State.reset with sp := 16 } =
      { place 0x2300 State.reset with sp := 16, fault := ⟨.stackOverflow, 0x200, 0x2300, 16⟩ } := by decide
/-- T42.6, T42.8: the slot keeps its content; b1 is not inspected. -/
theorem test_ret :
    let s := { State.reset with pc := 0x300, sp := 1, stack := State.reset.stack.set 0 0x202 }
    after 0x00EE s = { place 0x00EE s with pc := 0x202, sp := 0 } ∧ (after 0x01EE s).pc = 0x202 := by decide
/-- T42.7 -/
theorem test_ret_underflow :
    after 0x00EE State.reset =
      { place 0x00EE State.reset with fault := ⟨.stackUnderflow, 0x200, 0x00EE, 0⟩ } := by decide
/-- T42.9, T42.10: the sum is not reduced to 12 bits. -/
theorem test_jpV0 :
    (after 0xB300 (regs [(0, 0x10)])).pc = 0x310 ∧ (after 0xBFFF (regs [(0, 0xFF)])).pc = 0x10FE := by decide

/-- T43.1, T43.2 -/
theorem test_skp :
    (after 0xE49E ((regs [(4, 0xA)]).setKey 0xA true)).pc = 0x204 ∧ (after 0xE49E (regs [(4, 0xA)])).pc = 0x202 := by
  decide
/-- T43.5 -/
theorem test_skp_index_16 :
    after 0xE49E (regs [(4, 0x10)]) =
      { place 0xE49E (regs [(4, 0x10)]) with fault := ⟨.keyIndexOob, 0x200, 0xE49E, 16⟩ } := by decide
/-- T43.3, T43.4 -/
theorem test_sknp :
    (after 0xE4A1 (regs [(4, 0xA)])).pc = 0x204 ∧ (after 0xE4A1 ((regs [(4, 0xA)]).setKey 0xA true)).pc = 0x202 := by
  decide
/-- T43.6: index 255 is not masked to 15. -/
theorem test_sknp_index_255 :
    (after 0xE4A1 ((regs [(4, 0xFF)]).setKey 0xF true)).fault = ⟨.keyIndexOob, 0x200, 0xE4A1, 255⟩ := by decide
/-- T43.7: after this step's own decrement. -/
theorem test_ldVxDt :
    after 0xF307 (State.reset.setDt 5) = { place 0xF307 ((regs [(3, 4)]).setDt 4) with pc := 0x202 } := by decide
/-- T43.9: the write overrides the decrement. -/
theorem test_ldDtVx : (after 0xF315 ((regs [(3, 0x3C)]).setDt 7)).dt = 60 := by decide
/-- T43.10, first step -/
theorem test_ldStVx :
    after 0xF318 (regs [(3, 2)]) = { place 0xF318 (regs [(3, 2)]) with st := 2, pc := 0x202 } := by decide

/-- T44.1 -/
theorem test_ldI :
    let s := { State.reset with i := 5, drawFont := true }
    after 0xA2F0 s = { place 0xA2F0 s with i := 0x2F0, drawFont := false, pc := 0x202 } := by decide
/-- T44.2, T44.3: past the end of Memory, and around 65536 with VF untouched. -/
theorem test_addIVx :
    (after 0xF21E ((regs [(2, 5)]).setI 0xFFE)).i = 0x1003 ∧
    (after 0xF21E ((regs [(2, 1), (0xF, 7)]).setI 0xFFFF)).i = 0 ∧
    (after 0xF21E ((regs [(2, 1), (0xF, 7)]).setI 0xFFFF)).reg 0xF = 7 := by decide
/-- T44.5: the whole 8-bit value. -/
theorem test_ldFVx :
    after 0xF529 (regs [(5, 0xC8)]) =
      { place 0xF529 (regs [(5, 0xC8)]) with i := 0xC8, drawFont := true, pc := 0x202 } := by decide
/-- T44.6: 156 is 1, 5, 6. -/
theorem test_ldBVx :
    after 0xF333 ((regs [(3, 0x9C)]).setI 0x300) =
      { mem 0x300 [1, 5, 6] (place 0xF333 ((regs [(3, 0x9C)]).setI 0x300)) with pc := 0x202 } := by decide
/-- T44.10: I + 2 = 0x1000. -/
theorem test_ldBVx_oob :
    after 0xF333 ((regs [(3, 0x64)]).setI 0xFFE) =
      { place 0xF333 ((regs [(3, 0x64)]).setI 0xFFE) with fault := ⟨.memWriteOob, 0x200, 0xF333, 0x1000⟩ } := by decide
/-- T44.12: x = 2 stores two registers. -/
theorem test_ldMiVx :
    after 0xF255 ((regs [(0, 0x11), (1, 0x22), (2, 0x33)]).setI 0x400) =
      { mem 0x400 [0x11, 0x22] (place 0xF255 ((regs [(0, 0x11), (1, 0x22), (2, 0x33)]).setI 0x400)) with pc := 0x202 } :=
  by decide
/-- T44.15, T44.13: the second byte out of range stores nothing; x = 0 cannot fault. -/
theorem test_ldMiVx_oob :
    after 0xF255 ((regs [(0, 0x11), (1, 0x22)]).setI 0xFFF) =
      { place 0xF255 ((regs [(0, 0x11), (1, 0x22)]).setI 0xFFF) with
        fault := ⟨.memWriteOob, 0x200, 0xF255, 0x1000⟩ } ∧
    (after 0xF055 ((regs [(0, 0x11)]).setI 0xFFFF)).fault.code = .none := by decide
/-- T44.17: V3 is not loaded. -/
theorem test_ldVxMi :
    let s := mem 0x400 [0xAA, 0xBB, 0xCC, 0xDD] (State.reset.setI 0x400)
    after 0xF365 s = { place 0xF365 s with v := (regs [(0, 0xAA), (1, 0xBB), (2, 0xCC)]).v, pc := 0x202 } := by decide
/-- T44.19: no register written. -/
theorem test_ldVxMi_oob :
    let s := mem 0xFFF [0x77] (State.reset.setI 0xFFF)
    after 0xF265 s = { place 0xF265 s with fault := ⟨.memReadOob, 0x200, 0xF265, 0x1000⟩ } := by decide

/-- T45.15: VF untouched. -/
theorem test_cls :
    after 0x00E0 (lit (regs [(0xF, 1)]) [(0, 0), (10, 5), (63, 31)]) =
      { place 0x00E0 (regs [(0xF, 1)]) with pc := 0x202 } := by decide
/-- T45.1: a sprite that crosses the right edge. -/
theorem test_drw_standard_wraps :
    let s := mem 0x300 [0xF0] ((regs [(0, 0x3E), (1, 0)]).setI 0x300)
    after 0xD011 s = { lit (place 0xD011 s) [(0, 0), (1, 0), (62, 0), (63, 0)] with pc := 0x202 } := by decide
/-- T45.9, T45.11: one pixel set and one erased; a sprite whose last byte is out of range draws nothing and keeps VF. -/
theorem test_drw_standard_collides_and_faults :
    let s := mem 0x300 [0xC0] (State.reset.setI 0x300)
    let f := { (regs [(0xF, 3)]) with i := 0xFF2 }
    after 0xD011 (lit s [(1, 0)]) = { lit ((place 0xD011 s).setReg 0xF 1) [(0, 0)] with pc := 0x202 } ∧
    after 0xD01F f = { place 0xD01F f with fault := ⟨.memReadOob, 0x200, 0xD01F, 0x1000⟩ } := by decide

/-- T45.13, second step: glyph 16 in font mode. -/
theorem test_drw_font_glyph_16 :
    let s := { (regs [(2, 0x10)]) with i := 0x10, drawFont := true, pc := 0x202 }
    after 0xD015 s = { place 0xD015 s with fault := ⟨.glyphIndexOob, 0x202, 0xD015, 16⟩ } := by decide

/-- T45.4 with the default table of R166, which the machine does not hold: the plotting of glyph 1 at (0, 0). -/
theorem test_default_glyph_1 :
    plotRows 0 0 4 (Config.defaultFont 1) 5 State.reset.fb =
      ((lit State.reset [(2, 0), (1, 1), (2, 1), (2, 2), (2, 3), (1, 4), (2, 4), (3, 4)]).fb, false) := by decide
/-- T45.17 likewise: glyph 0 at (62, 30) wraps both ways. -/
theorem test_default_glyph_0_wraps :
    (plotRows 62 30 4 (Config.defaultFont 0) 5 State.reset.fb).1 =
      (lit (lit State.reset [(1, 0), (62, 0), (1, 1), (62, 1), (0, 2), (1, 2), (62, 2), (63, 2)])
        [(0, 30), (1, 30), (62, 30), (63, 30), (1, 31), (62, 31)]).fb := by decide

/-- T46.1 -/
theorem test_scd : after 0x00C4 (lit State.reset [(1, 1)]) = (place 0x00C4 (lit State.reset [(1, 1)])).setPc 0x202 := by
  decide
/-- T46.3 to T46.6 -/
theorem test_scr_scl_low_high :
    (after 0x00FB State.reset).pc = 0x202 ∧ (after 0x00FC State.reset).pc = 0x202 ∧
    (after 0x00FE State.reset).pc = 0x202 ∧ (after 0x00FF State.reset).pc = 0x202 := by decide
/-- T46.7, T46.8: nothing drawn in either mode, VF kept, no fault. -/
theorem test_drwExt :
    let s := mem 0x300 [0xFF] ((regs [(0xF, 1)]).setI 0x300)
    let f := { State.reset with i := 0x63, drawFont := true }
    after 0xD120 s = (place 0xD120 s).setPc 0x202 ∧ after 0xD120 f = (place 0xD120 f).setPc 0x202 := by decide
/-- T46.9: does not wait, does not write V3. -/
theorem test_ldVxK :
    let s := (regs [(3, 0x55)]).setKey 2 true
    after 0xF30A s = (place 0xF30A s).setPc 0x202 := by decide
/-- T46.11 -/
theorem test_ldHfVx :
    let s := (regs [(3, 4)]).setI 0x123
    after 0xF330 s = (place 0xF330 s).setPc 0x202 := by decide
/-- T46.12, T46.16 -/
theorem test_unknown :
    let s := (regs [(1, 0x33), (0xF, 1)]).setI 0x345
    after 0x0000 s = (place 0x0000 s).setPc 0x202 ∧ after 0x8128 s = (place 0x8128 s).setPc 0x202 := by decide

/-- T60.1, T60.2: a fetch out of range counts the timers down, records the fault, and stops. -/
theorem test_fetchOob :
    let s := { State.reset with pc := 0xFFF, dt := 3 }
    let t := { s with dt := 2, fault := ⟨.fetchOob, 0xFFF, 0, 0xFFF⟩ }
    stateOr s (step s) = t ∧ stateOr s (step t) = t := by decide
/-- T60.3: 0xFFE is the last legal fetch address. -/
theorem test_fetch_at_FFE : (after 0x1200 (State.reset.setPc 0xFFE)).pc = 0x200 := by decide
/-- T43.11 -/
theorem test_timers_in_any_step :
    (after 0x0000 { State.reset with dt := 1, st := 200 }).dt = 0 ∧
    (after 0x0000 { State.reset with dt := 1, st := 200 }).st = 199 := by decide

/-! ### Witnesses: states and operands that meet the hypotheses of each statement, each clause at its boundary -/

theorem witness_DecodeOfEncodeIsIdentity :
    (Instr.drw 0xF 0xF 1).wf = true ∧ (Instr.seVxVy 1 2 7).wf = true ∧ (Instr.unknown 0xFFFF).wf = true := by decide

theorem witness_UnusedNibblesDoNotMatter :
    ({ State.reset with sp := 1 } : State).sp ≠ 0 ∧
    (let s := { State.reset with drawFont := true, i := 15 }; s.drawFont = true ∧ s.i.toNat ≤ 15) := by decide

theorem witness_StepRunsTheFetchedInstruction :
    ({ State.reset with fault := ⟨.fetchOob, 0xFFF, 0, 0xFFF⟩ } : State).fault.code ≠ .none ∧
    (let s := State.reset.setPc 0xFFF; s.fault.code = .none ∧ s.pc.toNat > 0xFFE) ∧
    (let s := State.reset.setPc 0xFFE; s.fault.code = .none ∧ s.pc.toNat ≤ 0xFFE) := by decide

theorem witness_FaultsArePrecise :
    let s := place 0x00EE { State.reset with dt := 1 }
    s.fault.code = .none ∧ ∃ t, step s = .next t ∧ t.fault.code ≠ .none := ⟨by decide, _, rfl, by decide⟩

theorem witness_StepRaisesExactlyTheTableFaults :
    (State.reset.setPc 0xFFF).fault.code = .none ∧ (State.reset.setPc 0xFFF).pc.toNat > 0xFFE ∧
    (State.reset.setPc 0xFFE).fault.code = .none ∧ (State.reset.setPc 0xFFE).pc.toNat ≤ 0xFFE ∧
    faultTable State.reset (decode 0x00EE) = some (.stackUnderflow, 0) := by decide

theorem witness_FaultIsKeptUntilReset :
    let s := { State.reset with fault := ⟨.fetchOob, 0xFFF, 0, 0xFFF⟩, dt := 2 }
    let ops := [HostOp.step, .keyEvent 4 true, .loadRom .unreadable, .fbRead 0 0, .faultStatus]
    s.fault.code ≠ .none ∧ HostOp.reset ∉ ops ∧ ∃ t, s.applyAll ops = .next t := ⟨by decide, by decide, _, rfl⟩

theorem witness_StepKeepsMemoryCanonical :
    let s := place 0xF255 ((regs [(0, 0x11), (1, 0)]).setI 0x400)
    s.mem.wf ∧ ∃ t, step s = .next t := ⟨by decide, _, rfl⟩

theorem witness_StepKeepsPcBounded :
    (let s := State.reset.setPc 0x10FE; s.pcBounded ∧ ∃ t, step s = .next t) ∧
    (let s := place 0x00EE { State.reset with sp := 16, stack := State.reset.stack.set 15 0x1000 };
      s.pcBounded ∧ ∃ t, step s = .next t) := ⟨⟨by decide, _, rfl⟩, by decide, _, rfl⟩

theorem witness_StepKeepsFaultRecordConsistent :
    (let s := State.reset.setPc 0xFFF; s.faultRecordOk ∧ ∃ t, step s = .next t) ∧
    (let s := { State.reset with fault := ⟨.keyIndexOob, 0x200, 0xE49E, 16⟩ };
      s.faultRecordOk ∧ ∃ t, step s = .next t) := ⟨⟨by decide, _, rfl⟩, by decide, _, rfl⟩

theorem witness_ReachableStatesMeetTheInvariants :
    (∃ t, State.reset.applyAll [.reset, .keyEvent 3 true, .step, .fbRead 63 31, .faultStatus] = .next t) ∧
    ∃ t, State.reset.applyAll [.reset, .loadRom (.bytes [0x60, 0x05])] = .next t := ⟨⟨_, rfl⟩, _, rfl⟩

/-- One state for all six operations, at the bounds of R25 (a store into Memory before it), and a faulted one. -/
theorem witness_HostOperationsKeepTheInvariants :
    (let s := { mem 0x400 [1] (State.reset.setPc 0x10FE) with stack := State.reset.stack.set 15 0x1000 };
      (s.mem.wf ∧ s.pcBounded ∧ s.faultRecordOk) ∧ ∃ p q r u v w, s.apply .reset = .next p ∧
      s.apply (.loadRom (.bytes [0x60])) = .next q ∧ s.apply (.keyEvent 0xF true) = .next r ∧ s.apply .step = .next u ∧
      s.apply (.fbRead 63 31) = .next v ∧ s.apply .faultStatus = .next w) ∧
    (let s := { State.reset with fault := ⟨.keyIndexOob, 0x200, 0xE49E, 16⟩ };
      (s.mem.wf ∧ s.pcBounded ∧ s.faultRecordOk) ∧ ∃ p, s.apply .step = .next p) :=
  ⟨⟨by decide, _, _, _, _, _, _, rfl, rfl, rfl, rfl, rfl, rfl⟩, by decide, _, rfl⟩

theorem witness_StepNeverWritesKeys : ∃ t, step (place 0xF30A State.reset) = .next t := ⟨_, rfl⟩

theorem witness_StackWrittenOnlyByCallAndRet :
    (∃ t, exec (.ret 0) { State.reset with sp := 1 } = .next t) ∧ (∀ nnn, Instr.ret 0 ≠ .call nnn) ∧
    (∃ t, exec (.cls 0) State.reset = .next t) ∧ (∀ nnn, Instr.cls 0 ≠ .call nnn) ∧ ∀ b1, Instr.cls 0 ≠ .ret b1 :=
  ⟨⟨_, rfl⟩, by simp, ⟨_, rfl⟩, by simp, by simp⟩

theorem witness_FramebufferWrittenOnlyByClsAndDrw :
    (∃ t, exec (.drwExt 1 2) State.reset = .next t) ∧ (∀ b1, Instr.drwExt 1 2 ≠ .cls b1) ∧
    ∀ x y n, Instr.drwExt 1 2 ≠ .drw x y n := ⟨⟨_, rfl⟩, by simp, by simp⟩

theorem witness_MemoryWrittenOnlyByStores :
    (∃ t, exec (.ldVxMi 2) State.reset = .next t) ∧ (∀ x, Instr.ldVxMi 2 ≠ .ldBVx x) ∧
    ∀ x, Instr.ldVxMi 2 ≠ .ldMiVx x := ⟨⟨_, rfl⟩, by simp, by simp⟩

theorem witness_IndexAndModeWriters :
    (∃ t, exec (.ldBVx 1) State.reset = .next t) ∧ (∀ nnn, Instr.ldBVx 1 ≠ .ldI nnn) ∧
    (∀ x, Instr.ldBVx 1 ≠ .ldFVx x) ∧ ∀ x, Instr.ldBVx 1 ≠ .addIVx x := ⟨⟨_, rfl⟩, by simp, by simp, by simp⟩

theorem witness_FlagRegisterWriters :
    (∃ t, exec (.addVxVy 1 2) State.reset = .next t) ∧ (∃ t, exec (.ldVxKk 0xE 1) State.reset = .next t) ∧
    (∃ t, exec (.drw 0 0 1) State.reset = .next t) ∧ (1 : Nibble) ≠ 0 ∧
    faultTable State.reset (.drw 0 0 1) = none ∧ (0xE : Nibble) ≠ 0xF :=
  ⟨⟨_, rfl⟩, ⟨_, rfl⟩, ⟨_, rfl⟩, by decide, by decide, by decide⟩

theorem witness_TimersFallByOneEachStep :
    let s := { State.reset with dt := 1, st := 0 }
    s.fault.code = .none ∧ (∃ t, step s = .next t) ∧
      (∀ op x, s.fetch = some op → decode op ≠ .ldDtVx x) ∧ ∀ op x, s.fetch = some op → decode op ≠ .ldStVx x :=
  ⟨by decide, ⟨_, rfl⟩, by rintro _ _ ⟨⟩; decide +revert, by rintro _ _ ⟨⟩; decide +revert⟩

theorem witness_TimersInterleaveWithSteps_at_a_step :
    (place 0xF315 State.reset).fetch = some 0xF315 ∧ decode 0xF315 = .ldDtVx 3 ∧
    (place 0xF318 State.reset).fetch = some 0xF318 ∧ decode 0xF318 = .ldStVx 3 ∧
    (place 0xF307 State.reset).fetch = some 0xF307 ∧ decode 0xF307 = .ldVxDt 3 ∧
    (place 0xF307 State.reset).fault.code = .none := by decide

/-- Both timers at a value, pc at an address, all else as after reset: every word there is UNKNOWN. -/
def timersAt (t : Byte) (pc : Word) : State := { State.reset with dt := t, st := t, pc := pc }

/-- A run of one step of an UNKNOWN word, both timers at 5 before it. -/
theorem witness_TimersInterleaveWithSteps_over_steps :
    let f : Nat → State := fun j => if j = 0 then timersAt 5 0x200 else timersAt 4 0x202
    ∀ j < 1, (f j).fault.code = .none ∧ step (f j) = .next (f (j + 1)) ∧
      (∀ op x, (f j).fetch = some op → decode op ≠ .ldDtVx x) ∧
      ∀ op x, (f j).fetch = some op → decode op ≠ .ldStVx x := by
  intro f j hj
  obtain rfl : j = 0 := by omega
  have h : step (timersAt 5 0x200) = .next (timersAt 4 0x202) := by rfl
  exact ⟨by decide, h, by rintro _ _ ⟨⟩; decide +revert, by rintro _ _ ⟨⟩; decide +revert⟩

theorem witness_CallPushesTheReturnAddress :
    ({ State.reset with sp := 15 } : State).sp.val < 16 ∧ ({ State.reset with sp := 16 } : State).sp.val = 16 := by decide

theorem witness_RetPopsTheReturnAddress :
    ({ State.reset with sp := 1 } : State).sp.val ≠ 0 ∧ (0 : Fin 16).val = ({ State.reset with sp := 1 } : State).sp.val - 1 ∧
    ({ State.reset with sp := 16 } : State).sp.val ≠ 0 ∧
    (15 : Fin 16).val = ({ State.reset with sp := 16 } : State).sp.val - 1 ∧ State.reset.sp.val = 0 := by decide

theorem witness_CallThenRetComesBack :
    ({ State.reset with sp := 15 } : State).sp.val < 16 ∧ (15 : Fin 16).val = ({ State.reset with sp := 15 } : State).sp.val ∧
    (14 : Fin 16).val ≠ ({ State.reset with sp := 15 } : State).sp.val := by decide

theorem witness_KeySkips :
    ((regs [(4, 15)]).reg 4).toNat = (15 : Fin 16).val ∧ ((regs [(4, 16)]).reg 4).toNat > 15 := by decide

theorem witness_BcdStoresThreeDigits :
    (State.reset.setI 0xFFD).i.toNat + 2 ≤ 0xFFF ∧ (State.reset.setI 0xFFE).i.toNat + 2 > 0xFFF := by decide

theorem witness_BlockStoreWritesXRegisters :
    ((0 : Nibble) = 0 ∨ (State.reset.setI 0xFFFF).i.toNat + (0 : Nibble).toNat - 1 ≤ 0xFFF) ∧
    ((0xF : Nibble) = 0 ∨ (State.reset.setI 0xFF1).i.toNat + (0xF : Nibble).toNat - 1 ≤ 0xFFF) ∧
    (0xE : Nibble).toNat < (0xF : Nibble).toNat ∧
    (0xFF0 < (State.reset.setI 0xFF1).i.toNat ∨ (State.reset.setI 0xFF1).i.toNat + (0xF : Nibble).toNat ≤ 0xFF0) ∧
    (0xF : Nibble) ≠ 0 ∧ (State.reset.setI 0xFF2).i.toNat + (0xF : Nibble).toNat - 1 > 0xFFF := by decide

theorem witness_BlockLoadReadsXRegisters :
    ((0 : Nibble) = 0 ∨ (State.reset.setI 0xFFFF).i.toNat + (0 : Nibble).toNat - 1 ≤ 0xFFF) ∧
    ((1 : Nibble) = 0 ∨ (State.reset.setI 0xFFF).i.toNat + (1 : Nibble).toNat - 1 ≤ 0xFFF) ∧
    (1 : Nibble) ≠ 0 ∧ (State.reset.setI 0x1000).i.toNat + (1 : Nibble).toNat - 1 > 0xFFF := by decide

theorem witness_BlockLoadRestoresBlockStore :
    ((0 : Nibble) = 0 ∨ (State.reset.setI 0xFFFF).i.toNat + (0 : Nibble).toNat - 1 ≤ 0xFFF) ∧
    ((1 : Nibble) = 0 ∨ (State.reset.setI 0xFFF).i.toNat + (1 : Nibble).toNat - 1 ≤ 0xFFF) ∧
    (0 : Nibble).toNat < (1 : Nibble).toNat ∧
    ((0xF : Nibble) = 0 ∨ (State.reset.setI 0xFF1).i.toNat + (0xF : Nibble).toNat - 1 ≤ 0xFFF) ∧
    (0xE : Nibble).toNat < (0xF : Nibble).toNat := by decide

theorem witness_StoreIsSeenByTheNextFetch :
    let s := State.reset.setI 0x202
    2 ≤ (2 : Nibble).toNat ∧ s.i = s.pc + 2 ∧ s.i.toNat + (2 : Nibble).toNat - 1 ≤ 0xFFF := by decide

theorem witness_StandardDrawXorsTheSprite :
    (0xF : Nibble) ≠ 0 ∧ State.reset.drawFont = false ∧
    (State.reset.setI 0xFF1).i.toNat + (0xF : Nibble).toNat - 1 ≤ 0xFFF ∧
    (State.reset.setI 0xFF2).i.toNat + (0xF : Nibble).toNat - 1 > 0xFFF ∧ (0xE : Nibble) ≠ 0xF := by decide

theorem witness_FontDrawXorsTheGlyph :
    (1 : Nibble) ≠ 0 ∧ (State.reset.setDrawFont true).drawFont = true ∧
    ((State.reset.setDrawFont true).setI 15).i.toNat ≤ 15 ∧
    ((State.reset.setDrawFont true).setI 16).i.toNat > 15 ∧ (0xE : Nibble) ≠ 0xF := by decide

theorem witness_DrawingTwiceRestoresTheDisplay :
    (0xF : Nibble) ≠ 0 ∧ (0xE : Nibble) ≠ 0xF ∧ (0 : Nibble) ≠ 0xF ∧
    faultTable (State.reset.setI 0xFF1) (.drw 0xE 0 0xF) = none ∧
    faultTable ((State.reset.setDrawFont true).setI 15) (.drw 0xE 0 0xF) = none := by decide

theorem witness_StubsAndUnknownOnlyAdvance : tableId 0x0000 = .unknown ∧ tableId 0xFFFF = .unknown := by decide

theorem witness_FinishedProgramOnlyCountsDown : (place 0x1200 { State.reset with dt := 2 }).finished :=
  ⟨by decide, 0x200, by decide, by decide⟩

end Sys2Proof.Tests
end

section
/-! Family 00_scope: precise faults, and the three invariants, kept by every host operation and so true of every state
reached from reset. The content is what a step can do to the fault record, to pc, to the stack slots and to Memory. -/

namespace Sys2Proof.Machine

/-! ### The fault record: kept, or written by a raise (R203, R204) -/

/-- The two modes of DRW share their outcomes (R162): a draw of some sprite, or a raise. -/
theorem exec_drw_draws_or_raises (x y n : Nibble) (s t : State) (h : exec (.drw x y n) s = .next t) :
    (∃ width rows bits, t = s.drawSprite (s.reg x) (s.reg y) width rows bits) ∨
    ∃ c op a, c ≠ .none ∧ raise c op a s = .next t := by
  change execDrw x y n s = .next t at h
  cases hm : s.drawFont
  · by_cases hi : n.toNat = 0 ∨ s.i.toNat + n.toNat - 1 ≤ 0xFFF
    · exact .inl ⟨_, _, _, next_inj ((execDrw_standard_ok x y n s hm hi).symm.trans h)⟩
    · exact .inr ⟨_, _, _, by simp, (execDrw_standard_fault x y n s hm (by omega) (by omega)).symm.trans h⟩
  · by_cases hi : s.i.toNat ≤ 15
    · exact .inl ⟨_, _, _, next_inj ((execDrw_font_ok x y n s hm hi).symm.trans h)⟩
    · exact .inr ⟨_, _, _, by simp, (execDrw_font_fault x y n s hm (by omega)).symm.trans h⟩

/-- For every term, also the DRW and UNKNOWN terms that no word decodes to. -/
theorem exec_keeps_fault_or_raises (i : Instr) (s t : State) (h : exec i s = .next t) :
    t.fault = s.fault ∨ ∃ c op a, c ≠ .none ∧ raise c op a s = .next t := by
  by_cases hw : i.wf = true
  · rcases exec_completes_or_raises i s hw with ⟨_, u, hu, hf⟩ | ⟨c, a, _, hc, hr⟩
    · exact .inl (next_inj (hu.symm.trans h) ▸ hf)
    · exact .inr ⟨c, _, a, hc, hr.symm.trans h⟩
  · cases i
    case unknown op => cases h; exact .inl rfl
    case drw x y n =>
      rcases exec_drw_draws_or_raises x y n s t h with ⟨_, _, _, rfl⟩ | hr
      · exact .inl (State.drawSprite_fault ..)
      · exact .inr hr
    all_goals exact absurd rfl hw

/-- The three ways a step ends (R200): halted as before, with a fault just raised, or with its instruction completed. -/
theorem step_halts_or_raises_or_completes (s t : State) (h : step s = .next t) :
    (s.fault.code ≠ .none ∧ t = s) ∨
    (s.fault.code = .none ∧ ∃ c op a, c ≠ .none ∧ raise c op a s.tick = .next t) ∨
    (s.fault.code = .none ∧ ∃ op, s.fetch = some op ∧ exec (decode op) s.tick = .next t ∧ t.fault = s.fault) := by
  rcases step_cases s with ⟨hs, he⟩ | ⟨hs, _, he⟩ | ⟨hs, op, hf, he⟩
  · exact .inl ⟨hs, next_inj (he.symm.trans h)⟩
  · exact .inr (.inl ⟨hs, _, _, _, by simp, he.symm.trans h⟩)
  · have hx := he.symm.trans h
    rcases exec_keeps_fault_or_raises _ _ _ hx with hk | hr
    · exact .inr (.inr ⟨hs, op, hf, hx, hk⟩)
    · exact .inr (.inl ⟨hs, hr⟩)

theorem step_keeps_faultRecordOk (s t : State) (hs : s.faultRecordOk) (h : step s = .next t) : t.faultRecordOk := by
  rcases step_halts_or_raises_or_completes s t h with ⟨_, rfl⟩ | ⟨_, c, op, a, hc, hr⟩ | ⟨hn, _, _, _, hf⟩
  · exact hs
  · cases hr
    exact ⟨fun hn => absurd hn hc, fun _ => rfl⟩
  · rw [State.faultRecordOk, hf]
    exact ⟨hs.1, absurd hn⟩

/-! ### pc and the stack slots (R24, R25) -/

/-- Where pc can be after an instruction executed in `s`. -/
inductive NextPc (s : State) : Word → Prop
  | stay : NextPc s s.pc
  | next : NextPc s (s.pc + 2)
  | skip : NextPc s (s.pc + 4)
  | jump (nnn : Addr12) : NextPc s (nnn.zeroExtend 16)
  | jumpV0 (nnn : Addr12) (b : Byte) : NextPc s (nnn.zeroExtend 16 + b.zeroExtend 16)
  | slot (j : Fin 16) : NextPc s s.stack[j]

theorem NextPc.of_raise {c : FaultCode} {op : Word} {a : Nat} {s t : State} (h : raise c op a s = .next t) :
    NextPc s t.pc := by
  cases h; exact .stay

theorem NextPc.skipIf (s : State) (c : Bool) : NextPc s (s.skipIf c).pc := by
  cases c
  · exact .next
  · exact .skip

theorem exec_nextPc (i : Instr) (s t : State) (h : exec i s = .next t) : NextPc s t.pc := by
  cases i
  case jp nnn => cases h; exact .jump nnn
  case jpV0 nnn => cases h; exact .jumpV0 nnn _
  case seVxKk | sneVxKk | seVxVy | sneVxVy => cases h; exact .skipIf s _
  case call nnn =>
    by_cases hsp : s.sp.val = 16
    · exact .of_raise ((execCall_fault nnn s hsp).symm.trans h)
    · obtain rfl := next_inj ((execCall_ok nnn s (by omega)).symm.trans h); exact .jump nnn
  case ret b1 =>
    by_cases hsp : s.sp.val = 0
    · exact .of_raise ((execRet_fault b1 s hsp).symm.trans h)
    · obtain rfl := next_inj ((execRet_ok b1 s hsp).symm.trans h); exact .slot ⟨s.sp.val - 1, by omega⟩
  case skp x =>
    by_cases hx : (s.reg x).toNat > 15
    · exact .of_raise ((execSkp_fault x s hx).symm.trans h)
    · obtain rfl := next_inj ((execSkp_ok x s (by omega)).symm.trans h); exact .skipIf s _
  case sknp x =>
    by_cases hx : (s.reg x).toNat > 15
    · exact .of_raise ((execSknp_fault x s hx).symm.trans h)
    · obtain rfl := next_inj ((execSknp_ok x s (by omega)).symm.trans h); exact .skipIf s _
  case ldBVx x =>
    by_cases hi : s.i.toNat + 2 > 0xFFF
    · exact .of_raise ((execLdBVx_fault x s hi).symm.trans h)
    · obtain rfl := next_inj ((execLdBVx_ok x s (by omega)).symm.trans h); exact .next
  case ldMiVx x =>
    by_cases hi : x.toNat = 0 ∨ s.i.toNat + x.toNat - 1 ≤ 0xFFF
    · obtain rfl := next_inj ((execLdMiVx_ok x s hi).symm.trans h); rw [State.storeRegs_eq]; exact .next
    · exact .of_raise ((execLdMiVx_fault x s (by omega) (by omega)).symm.trans h)
  case ldVxMi x =>
    by_cases hi : x.toNat = 0 ∨ s.i.toNat + x.toNat - 1 ≤ 0xFFF
    · obtain rfl := next_inj ((execLdVxMi_ok x s hi).symm.trans h); rw [State.loadRegs_eq]; exact .next
    · exact .of_raise ((execLdVxMi_fault x s (by omega) (by omega)).symm.trans h)
  case drw x y n =>
    rcases exec_drw_draws_or_raises x y n s t h with ⟨_, _, _, rfl⟩ | ⟨_, _, _, _, hr⟩
    · rw [State.drawSprite_pc]; exact .next
    · exact .of_raise hr
  all_goals cases h; exact .next

/-- R25's arithmetic: the farthest place is 0xFFF + 0xFF, the target of JP_V0. -/
theorem NextPc.le_of_pc_le {s : State} {p : Word} (h : NextPc s p) (hpc : s.pc.toNat ≤ 0xFFE)
    (hst : ∀ j : Fin 16, s.stack[j].toNat ≤ 0x1000) : p.toNat ≤ 0x10FE := by
  cases h with
  | stay => omega
  | next => bv_omega
  | skip => bv_omega
  | jump nnn => bv_omega
  | jumpV0 nnn b => bv_omega
  | slot j => have := hst j; omega

/-- An instruction leaves a stack slot as it was, or CALL has put the return address there (R26, R131). -/
theorem exec_slot (i : Instr) (s t : State) (h : exec i s = .next t) (j : Fin 16) :
    t.stack[j] = s.stack[j] ∨ t.stack[j] = s.pc + 2 := by
  have hframe := exec_frame i s t h
  cases i
  case call nnn =>
    by_cases hsp : s.sp.val = 16
    · obtain rfl := raise_eq _ _ _ _ _ ((execCall_fault nnn s hsp).symm.trans h); exact .inl rfl
    · have hlt : s.sp.val < 16 := by omega
      obtain rfl := next_inj ((execCall_ok nnn s hlt).symm.trans h)
      simp only [State.setPc_stack, State.push_stack _ _ hlt, Fin.getElem_fin, Vector.getElem_set]
      split
      · exact .inr rfl
      · exact .inl rfl
  all_goals
    have hk : t.stack = s.stack := (congrArg State.stack hframe :)
    exact .inl (by rw [hk])

theorem exec_pcBounded (i : Instr) (s t : State) (hpc : s.pc.toNat ≤ 0xFFE)
    (hst : ∀ j : Fin 16, s.stack[j].toNat ≤ 0x1000) (h : exec i s = .next t) : t.pcBounded := by
  refine ⟨(exec_nextPc i s t h).le_of_pc_le hpc hst, fun j => ?_⟩
  rcases exec_slot i s t h j with hj | hj
  · rw [hj]; exact hst j
  · rw [hj]; bv_omega

theorem step_keeps_pcBounded (s t : State) (hs : s.pcBounded) (h : step s = .next t) : t.pcBounded := by
  rcases step_halts_or_raises_or_completes s t h with ⟨_, rfl⟩ | ⟨_, _, _, _, _, hr⟩ | ⟨_, op, hf, hx, _⟩
  · exact hs
  · cases hr; exact hs
  · exact exec_pcBounded _ s.tick t (s.fetch_some_le op hf) hs.2 hx

/-! ### Memory (R32, R55) -/

/-- Only the two stores write Memory, and they write it byte by byte. -/
theorem exec_keeps_mem_wf (i : Instr) (s t : State) (hs : s.mem.wf) (h : exec i s = .next t) : t.mem.wf := by
  have hframe := exec_frame i s t h
  cases i
  case ldBVx x =>
    by_cases hi : s.i.toNat + 2 > 0xFFF
    · obtain rfl := raise_eq _ _ _ _ _ ((execLdBVx_fault x s hi).symm.trans h); exact hs
    · obtain rfl := next_inj ((execLdBVx_ok x s (by omega)).symm.trans h)
      exact Memory.write_wf _ _ _ (Memory.write_wf _ _ _ (Memory.write_wf _ _ _ hs))
  case ldMiVx x =>
    by_cases hi : x.toNat = 0 ∨ s.i.toNat + x.toNat - 1 ≤ 0xFFF
    · obtain rfl := next_inj ((execLdMiVx_ok x s hi).symm.trans h); exact s.storeRegs_wf _ hs
    · obtain rfl := raise_eq _ _ _ _ _ ((execLdMiVx_fault x s (by omega) (by omega)).symm.trans h); exact hs
  all_goals
    have hk : t.mem = s.mem := (congrArg State.mem hframe :)
    exact hk ▸ hs

theorem step_keeps_mem_wf (s t : State) (hs : s.mem.wf) (h : step s = .next t) : t.mem.wf := by
  rcases step_halts_or_raises_or_completes s t h with ⟨_, rfl⟩ | ⟨_, _, _, _, _, hr⟩ | ⟨_, op, _, hx, _⟩
  · exact hs
  · cases hr; exact hs
  · exact exec_keeps_mem_wf _ s.tick t hs hx

/-! ### The three invariants together -/

/-- Canonical Memory, the bounds of R25, and a consistent fault record. -/
structure State.Invariants (s : State) : Prop where
  mem : s.mem.wf
  pc : s.pcBounded
  record : s.faultRecordOk

theorem step_keeps_invariants (s t : State) (hs : s.Invariants) (h : step s = .next t) : t.Invariants :=
  ⟨step_keeps_mem_wf s t hs.mem h, step_keeps_pcBounded s t hs.pc h, step_keeps_faultRecordOk s t hs.record h⟩

theorem State.invariants_reset : State.reset.Invariants := ⟨Memory.wf_nil, by decide, by decide⟩

theorem State.invariants_hostReset (s : State) : s.hostReset.Invariants :=
  ⟨invariants_reset.mem, invariants_reset.pc, invariants_reset.record⟩

theorem State.invariants_loadRom (s : State) (image : RomImage) (hs : s.Invariants) :
    (s.loadRom image).1.Invariants := by
  have hframe := s.loadRom_frame image
  have hpc : (s.loadRom image).1.pc = s.pc := (congrArg State.pc hframe :)
  have hstack : (s.loadRom image).1.stack = s.stack := (congrArg State.stack hframe :)
  have hfault : (s.loadRom image).1.fault = s.fault := (congrArg State.fault hframe :)
  exact ⟨s.loadRom_wf image hs.mem, by rw [State.pcBounded, hpc, hstack]; exact hs.pc,
    by rw [State.faultRecordOk, hpc, hfault]; exact hs.record⟩

theorem State.invariants_setKey (s : State) (k : Nibble) (pressed : Bool) (hs : s.Invariants) :
    (s.setKey k pressed).Invariants := ⟨hs.mem, hs.pc, hs.record⟩

theorem State.apply_keeps_invariants (s : State) (op : HostOp) (p : State × HostReply) (hs : s.Invariants)
    (h : s.apply op = .next p) : p.1.Invariants := by
  rcases s.apply_cases op p h with ⟨_, hstep⟩ | ⟨_, hp⟩ | ⟨image, _, hp⟩ | ⟨k, b, _, hp⟩ | hp
  · exact step_keeps_invariants s p.1 hs hstep
  · exact hp ▸ s.invariants_hostReset
  · exact hp ▸ s.invariants_loadRom image hs
  · exact hp ▸ s.invariants_setKey k b hs
  · exact hp ▸ hs

/-- What every host operation keeps, every sequence of them keeps. -/
theorem State.applyAll_keeps {P : State → Prop}
    (hop : ∀ (s : State) (op : HostOp) (p : State × HostReply), P s → s.apply op = .next p → P p.1)
    (ops : List HostOp) (s t : State) (hs : P s) (h : s.applyAll ops = .next t) : P t := by
  induction ops generalizing s with
  | nil => exact next_inj h ▸ hs
  | cons op rest ih =>
    simp only [State.applyAll] at h
    split at h
    next p hp => exact ih p.1 (hop s op p hs hp) h
    all_goals cases h

/-! ### The obligations -/

/-- Settles O54: `Step` by the three step lemmas, the other operations by what they leave alone. -/
theorem hostOperationsKeepTheInvariants : Obligations.HostOperationsKeepTheInvariants := by
  intro s op p hmem hpc hrec h
  have hp := s.apply_keeps_invariants op p ⟨hmem, hpc, hrec⟩ h
  exact ⟨hp.mem, hp.pc, hp.record⟩

/-- Settles O15, by induction over the operations from the reset state. -/
theorem reachableStatesMeetTheInvariants : Obligations.ReachableStatesMeetTheInvariants := by
  intro ops t h
  have ht := State.applyAll_keeps State.apply_keeps_invariants ops State.reset t State.invariants_reset h
  exact ⟨ht.mem, ht.pc, ht.record⟩

/-- Settles O8: of the three ways a step ends only the raise leaves a fault that was not there, and it writes the
record alone into the state phase 1 left. -/
theorem faultsArePrecise : Obligations.FaultsArePrecise := by
  intro s t hs h ht
  rcases step_halts_or_raises_or_completes s t h with ⟨hh, _⟩ | ⟨_, c, op, a, _, hr⟩ | ⟨_, _, _, _, hf⟩
  · exact absurd hs hh
  · cases hr
    simp only [countDown_eq]
    rfl
  · exact absurd (hf ▸ hs) ht

end Sys2Proof.Machine
end

section
/-! Family 10_state: the three invariants at a step, the halted block, and who writes which piece of state. -/

namespace Sys2Proof.Machine

/-! ### The invariants (R25, R32, R36) -/

/-- Settles O11: only the two stores write Memory, each byte by a write that keeps the canonical form. -/
theorem stepKeepsMemoryCanonical : Obligations.StepKeepsMemoryCanonical := step_keeps_mem_wf

/-- Settles O12: an instruction is fetched from at most 0xFFE, and from there pc reaches 0x10FE at most, by JP_V0. -/
theorem stepKeepsPcBounded : Obligations.StepKeepsPcBounded := step_keeps_pcBounded

/-- Settles O13: a step leaves the record, or a raise writes it with the pc it leaves in place. -/
theorem stepKeepsFaultRecordConsistent : Obligations.StepKeepsFaultRecordConsistent := step_keeps_faultRecordOk

/-- Settles O14, by the values of R37. -/
theorem resetMeetsTheInvariants : Obligations.ResetMeetsTheInvariants :=
  ⟨State.invariants_reset.mem, State.invariants_reset.pc, State.invariants_reset.record⟩

/-! ### The halted block (R205) -/

/-- In a faulted block no operation but `Reset` reaches more than the keys and Memory. -/
theorem State.apply_frame_of_faulted (s : State) (op : HostOp) (p : State × HostReply) (hs : s.fault.code ≠ .none)
    (hop : op ≠ .reset) (h : s.apply op = .next p) : { p.1 with key := s.key, mem := s.mem } = s := by
  rcases s.apply_cases op p h with ⟨_, hstep⟩ | ⟨hr, _⟩ | ⟨image, _, hp⟩ | ⟨k, b, _, hp⟩ | hp
  · have hp : p.1 = s := next_inj ((step_of_faulted s hs).symm.trans hstep)
    rw [hp]
  · exact absurd hr hop
  · rw [hp]
    exact congrArg (fun u : State => { u with key := s.key }) (s.loadRom_frame image)
  · rw [hp]; rfl
  · rw [hp]

/-- Settles O10, by induction over the operations: each leaves a block that is faulted as before, and the two frames
compose. -/
theorem faultIsKeptUntilReset : Obligations.FaultIsKeptUntilReset := by
  intro ops
  induction ops with
  | nil => intro s t _ _ h; rw [next_inj h]
  | cons op rest ih =>
    intro s t hs hops h
    obtain ⟨hop, hrest⟩ := List.ne_and_not_mem_of_not_mem_cons hops
    simp only [State.applyAll] at h
    split at h
    next p hp =>
      have hframe := s.apply_frame_of_faulted op p hs hop.symm hp
      have hfault : p.1.fault = s.fault := (congrArg State.fault hframe :)
      have ht := ih p.1 t (hfault ▸ hs) hrest h
      exact (congrArg (fun u : State => { u with key := s.key, mem := s.mem }) ht).trans hframe
    all_goals cases h

/-! ### The fields an instruction leaves alone, read off its frame (R23, R26, R28 to R31) -/

section
variable {i : Instr} {s t : State} (h : exec i s = .next t)
include h

theorem exec_key : t.key = s.key := by
  have hframe := exec_frame i s t h
  cases i <;> exact (congrArg State.key hframe :)

theorem exec_stack_of_ne_call (hcall : ∀ nnn, i ≠ .call nnn) : t.stack = s.stack := by
  have hframe := exec_frame i s t h
  cases i
  case call nnn => exact absurd rfl (hcall nnn)
  all_goals exact (congrArg State.stack hframe :)

theorem exec_sp_of_ne_call_ret (hcall : ∀ nnn, i ≠ .call nnn) (hret : ∀ b1, i ≠ .ret b1) : t.sp = s.sp := by
  have hframe := exec_frame i s t h
  cases i
  case call nnn => exact absurd rfl (hcall nnn)
  case ret b1 => exact absurd rfl (hret b1)
  all_goals exact (congrArg State.sp hframe :)

theorem exec_drawFont_of_ne_loads (hI : ∀ nnn, i ≠ .ldI nnn) (hF : ∀ x, i ≠ .ldFVx x) : t.drawFont = s.drawFont := by
  have hframe := exec_frame i s t h
  cases i
  case ldI nnn => exact absurd rfl (hI nnn)
  case ldFVx x => exact absurd rfl (hF x)
  all_goals exact (congrArg State.drawFont hframe :)

theorem exec_i_of_ne_writers (hI : ∀ nnn, i ≠ .ldI nnn) (hF : ∀ x, i ≠ .ldFVx x) (hadd : ∀ x, i ≠ .addIVx x) :
    t.i = s.i := by
  have hframe := exec_frame i s t h
  cases i
  case ldI nnn => exact absurd rfl (hI nnn)
  case ldFVx x => exact absurd rfl (hF x)
  case addIVx x => exact absurd rfl (hadd x)
  all_goals exact (congrArg State.i hframe :)

theorem exec_dt_of_ne_ldDtVx (hdt : ∀ x, i ≠ .ldDtVx x) : t.dt = s.dt := by
  have hframe := exec_frame i s t h
  cases i
  case ldDtVx x => exact absurd rfl (hdt x)
  all_goals exact (congrArg State.dt hframe :)

theorem exec_st_of_ne_ldStVx (hst : ∀ x, i ≠ .ldStVx x) : t.st = s.st := by
  have hframe := exec_frame i s t h
  cases i
  case ldStVx x => exact absurd rfl (hst x)
  all_goals exact (congrArg State.st hframe :)

end

/-- Settles O16: halting, phase 1 and a raise leave the keys alone, and so does every instruction. -/
theorem stepNeverWritesKeys : Obligations.StepNeverWritesKeys := by
  intro s t h
  rcases step_halts_or_raises_or_completes s t h with ⟨_, rfl⟩ | ⟨_, _, _, _, _, hr⟩ | ⟨_, _, _, hx, _⟩
  · rfl
  · cases hr; rfl
  · rw [exec_key hx, State.tick_key]

/-- Settles O17, by the frames of the instructions. -/
theorem stackWrittenOnlyByCallAndRet : Obligations.StackWrittenOnlyByCallAndRet :=
  fun _ _ _ h => ⟨exec_stack_of_ne_call h, exec_sp_of_ne_call_ret h⟩

/-- Settles O20, by the frames of the instructions. -/
theorem indexAndModeWriters : Obligations.IndexAndModeWriters :=
  fun _ _ _ h hI hF => ⟨exec_drawFont_of_ne_loads h hI hF, exec_i_of_ne_writers h hI hF⟩

/-- Settles O22: phase 1 counts both timers down, whether the step then raises or completes, and only the two writers
touch a timer after it. -/
theorem timersFallByOneEachStep : Obligations.TimersFallByOneEachStep := by
  intro s t hs h
  rcases step_halts_or_raises_or_completes s t h with ⟨hh, _⟩ | ⟨_, _, _, _, _, hr⟩ | ⟨_, op, hf, hx, _⟩
  · exact absurd hs hh
  · cases hr
    exact ⟨fun _ => toNat_countDown s.dt, fun _ => toNat_countDown s.st⟩
  · refine ⟨fun hdt => ?_, fun hst => ?_⟩
    · rw [exec_dt_of_ne_ldDtVx hx fun x => hdt op x hf, State.tick_dt, toNat_countDown]
    · rw [exec_st_of_ne_ldStVx hx fun x => hst op x hf, State.tick_st, toNat_countDown]

/-! ### VF (R21, R22) -/

/-- The tail of the five flag-setting ALU instructions: VF holds the flag, even where x is VF itself. -/
theorem State.vf_setRegFlag (s : State) (x : Nibble) (b : Byte) (f : Bool) :
    (s.setRegFlag x b f).advance.reg 0xF = 0 ∨ (s.setRegFlag x b f).advance.reg 0xF = 1 := by
  rw [State.advance_reg, State.reg_setRegFlag, if_pos rfl]
  exact flagByte_zero_or_one f

/-- The tail of the instructions with a destination register. -/
theorem State.vf_setReg (s : State) (x : Nibble) (b : Byte) (hx : x ≠ 0xF) :
    (s.setReg x b).advance.reg 0xF = s.reg 0xF := by
  rw [State.advance_reg, State.reg_setReg, if_neg hx.symm]

theorem State.vf_drawSprite (s : State) (px0 py0 : Byte) (w h : Nat) (bits : Nat → Nat → Bool) :
    (s.drawSprite px0 py0 w h bits).reg 0xF = 0 ∨ (s.drawSprite px0 py0 w h bits).reg 0xF = 1 := by
  rw [State.reg_drawSprite, if_pos rfl]
  exact flagByte_zero_or_one _

/-- A draw the fault table admits ends in VF <- collision, in either mode (R162). -/
theorem exec_drw_vf (x y n : Nibble) (s t : State) (hf : faultTable s (.drw x y n) = none)
    (h : exec (.drw x y n) s = .next t) : t.reg 0xF = 0 ∨ t.reg 0xF = 1 := by
  change execDrw x y n s = .next t at h
  cases hm : s.drawFont
  · have hi : ¬ s.i.toNat + n.toNat - 1 > 0xFFF := fun hi => by simp [faultTable, hm, hi] at hf
    obtain rfl := next_inj ((execDrw_standard_ok x y n s hm (by omega)).symm.trans h)
    exact s.vf_drawSprite ..
  · have hi : ¬ s.i.toNat > 15 := fun hi => by simp [faultTable, hm, hi] at hf
    obtain rfl := next_inj ((execDrw_font_ok x y n s hm (by omega)).symm.trans h)
    exact s.vf_drawSprite ..

/-- Fx65 loads V0 to V(x-1), and x is at most 15: VF is out of its reach (R155). -/
theorem exec_ldVxMi_vf (x : Nibble) (s t : State) (h : exec (.ldVxMi x) s = .next t) : t.reg 0xF = s.reg 0xF := by
  change execLdVxMi x s = .next t at h
  have hx : x.toNat < 16 := x.isLt
  by_cases hi : x.toNat = 0 ∨ s.i.toNat + x.toNat - 1 ≤ 0xFFF
  · obtain rfl := next_inj ((execLdVxMi_ok x s hi).symm.trans h)
    rw [State.advance_reg, State.reg_loadRegs _ _ _ (by omega), if_neg]
    exact Nat.not_lt.2 (Nat.le_of_lt_succ hx)
  · obtain rfl := raise_eq _ _ _ _ _ ((execLdVxMi_fault x s (by omega) (by omega)).symm.trans h)
    rfl

/-- Settles O21: flag-setting ALU instructions, draws, instructions with a destination, Fx65, and the rest, whose frames
hold all registers. -/
theorem flagRegisterWriters : Obligations.FlagRegisterWriters := by
  intro i s t h
  have hframe := exec_frame i s t h
  cases i
  case addVxVy | subVxVy | shr | subnVxVy | shl => cases h; exact s.vf_setRegFlag ..
  case drw x y n => exact fun _ hf => exec_drw_vf x y n s t hf h
  case rnd x kk => cases h; exact s.draw8.2.vf_setReg x _
  case ldVxKk | addVxKk | ldVxVy | orVxVy | andVxVy | xorVxVy | ldVxDt => cases h; exact s.vf_setReg _ _
  case ldVxMi x => exact exec_ldVxMi_vf x s t h
  all_goals exact (congrArg (State.reg · 0xF) hframe :)

/-! ### RND (R35, R123) -/

theorem decode_catByte_rnd (x : Nibble) (kk : Byte) : decode (catByte 0xC x kk) = .rnd x kk := by
  rw [decode_majorC _ (nib0_catByte ..), nib1_catByte, lowByte_catByte]

/-- Settles O31: the draw is a function of the counter alone, so kk has no part in it. -/
theorem randomPutsAFreeValue : Obligations.RandomPutsAFreeValue := by
  intro x kk kk' s
  refine ⟨decode_catByte_rnd x kk, rfl, _, rfl, fun r => ?_, rfl, rfl, rfl⟩
  rw [State.advance_reg, State.reg_setReg, State.draw8_reg]
  rfl

end Sys2Proof.Machine
end

section
/-! Family 20_memory: who writes Memory, and a store that the next fetch reads. -/

namespace Sys2Proof.Machine

/-! ### The writers of Memory (R50, R156) -/

theorem exec_mem_of_ne_stores {i : Instr} {s t : State} (h : exec i s = .next t) (hB : ∀ x, i ≠ .ldBVx x)
    (hM : ∀ x, i ≠ .ldMiVx x) : t.mem = s.mem := by
  have hframe := exec_frame i s t h
  cases i
  case ldBVx x => exact absurd rfl (hB x)
  case ldMiVx x => exact absurd rfl (hM x)
  all_goals exact (congrArg State.mem hframe :)

/-- Settles O19, by the frames of the instructions. -/
theorem memoryWrittenOnlyByStores : Obligations.MemoryWrittenOnlyByStores :=
  fun _ _ _ h hB hM _ => by rw [exec_mem_of_ne_stores h hB hM]

/-! ### A store into the instruction stream (R51, R60) -/

theorem State.storeRegs_pc (s : State) (n : Nat) : (s.storeRegs n).pc = s.pc :=
  (congrArg State.pc (s.storeRegs_frame n) :)

theorem State.read_storeRegs_add (s : State) (n k : Nat) (hi : s.i.toNat + n ≤ 0x1000) (hk : k < n) :
    (s.storeRegs n).mem.read (s.i.toNat + k) = s.reg (BitVec.ofNat 4 k) := by
  rw [State.read_storeRegs s n _ hi, if_pos (by omega), Nat.add_sub_cancel_left]

/-- At the place of the store the fetch reads V0 as the high byte and V1 as the low one. -/
theorem State.fetch_storeRegs (s : State) (n : Nat) (hn : 2 ≤ n) (hi : s.i.toNat + n ≤ 0x1000) :
    ((s.storeRegs n).setPc s.i).fetch = some (wordOfBytes (s.reg 0) (s.reg 1)) := by
  have hhigh : (s.storeRegs n).mem.read s.i.toNat = s.reg 0 := s.read_storeRegs_add n 0 hi (by omega)
  have hlow : (s.storeRegs n).mem.read (s.i.toNat + 1) = s.reg 1 := s.read_storeRegs_add n 1 hi (by omega)
  rw [State.fetch_of_le _ (by rw [State.setPc_pc]; omega), State.setPc_pc, State.setPc_mem, hhigh, hlow]

/-- Settles O44: pc advances to I, where V0 and V1 now stand. -/
theorem storeIsSeenByTheNextFetch : Obligations.StoreIsSeenByTheNextFetch := by
  intro x s hx hpc hi
  refine ⟨_, execLdMiVx_ok x s (.inr hi), ?_⟩
  rw [State.advance, State.storeRegs_pc, ← hpc]
  exact s.fetch_storeRegs x.toNat hx (by omega)

end Sys2Proof.Machine
end

section
/-! Family 30_encoding: the decode procedure, the encoder and the opcode table, major by major. What each says of a word
depends on b0 and on the selector nibbles b2 and b3, never on b1. -/

namespace Sys2Proof

/-! ### The table, read first match first (R74, R78)

Inside one major the rows of the table stand in the order of their priority numbers, so there the best row of R78 is the
first that matches. -/

/-- The identifier of the first row that admits the word. -/
def firstMatch (op : Word) : List Row → InstrId
  | [] => .unknown
  | r :: rest => if r.admits op then r.id else firstMatch op rest

theorem bestRow_mem {op : Word} {rows : List Row} {q : Row} (h : bestRow op rows = some q) : q ∈ rows := by
  induction rows with
  | nil => cases h
  | cons r rest ih => grind [bestRow]

/-- A row that no row after it undercuts is taken as soon as it matches. -/
theorem bestRow_cons_of_le {op : Word} {r : Row} {rest : List Row} (h : ∀ q ∈ rest, r.priority ≤ q.priority) :
    bestRow op (r :: rest) = if r.admits op then some r else bestRow op rest := by
  rw [bestRow]
  cases hb : bestRow op rest with
  | none => rfl
  | some q => simp [h q (bestRow_mem hb)]

theorem bestRow_id_eq_firstMatch {op : Word} {rows : List Row} (h : rows.Pairwise (·.priority ≤ ·.priority)) :
    ((bestRow op rows).map Row.id).getD .unknown = firstMatch op rows := by
  induction rows with
  | nil => rfl
  | cons r rest ih =>
    obtain ⟨hr, hrest⟩ := List.pairwise_cons.1 h
    rw [bestRow_cons_of_le hr, firstMatch, ← ih hrest]
    split <;> rfl

/-- Rows that do not admit the word may be left out. -/
theorem bestRow_filter {op : Word} {rows : List Row} (p : Row → Bool) (h : ∀ r ∈ rows, r.admits op = true → p r = true) :
    bestRow op (rows.filter p) = bestRow op rows := by
  induction rows with
  | nil => rfl
  | cons r rest ih =>
    have ih := ih fun q hq => h q (List.mem_cons_of_mem r hq)
    cases hp : p r with
    | true => rw [List.filter_cons_of_pos hp, bestRow, bestRow, ih]
    | false =>
      have ha : r.admits op = false := by
        by_contra hne
        exact absurd (h r List.mem_cons_self (by simpa using hne)) (by simp [hp])
      rw [List.filter_cons_of_neg (by simp [hp]), ih, bestRow]
      cases bestRow op rest <;> simp [ha]

/-- The rows a word of major b0 can match: those of that major, and UNKNOWN's. -/
def rowsOfMajor (b0 : Nibble) : List Row := opcodeRows.filter fun r => nib0 r.mask &&& b0 == nib0 r.value

theorem tableId_eq_firstMatch {op : Word} {b0 : Nibble} {rows : List Row} (h : nib0 op = b0)
    (hrows : rowsOfMajor b0 = rows) (hsorted : rows.Pairwise (·.priority ≤ ·.priority)) :
    tableId op = firstMatch op rows := by
  have hmajor : ∀ r ∈ opcodeRows, r.admits op = true → (nib0 r.mask &&& b0 == nib0 r.value) = true := by
    intro r _ ha
    rw [beq_iff_eq, ← h, BitVec.and_comm]
    exact ((and_eq_iff _ _ _).1 (beq_iff_eq.1 ha)).1
  rw [← bestRow_id_eq_firstMatch hsorted, ← hrows, rowsOfMajor, bestRow_filter _ hmajor]
  unfold tableId
  generalize bestRow op opcodeRows = best
  cases best <;> rfl

/-! ### The rows by the nibbles they fix (R74) -/

/-- A row that fixes b0 only. -/
def majorRow (id : InstrId) (b0 : Nibble) (priority : Nat) : Row := ⟨id, 0xF000, catNibbles b0 0 0 0, priority⟩
/-- A row that fixes b0 and b2. -/
def nib2Row (id : InstrId) (b0 b2 : Nibble) : Row := ⟨id, 0xF0F0, catNibbles b0 0 b2 0, 1⟩
/-- A row that fixes b0 and b3. -/
def nib3Row (id : InstrId) (b0 b3 : Nibble) : Row := ⟨id, 0xF00F, catNibbles b0 0 0 b3, 1⟩
/-- A row that fixes b0, b2 and b3. -/
def byteRow (id : InstrId) (b0 b2 b3 : Nibble) : Row := ⟨id, 0xF0FF, catNibbles b0 0 b2 b3, 1⟩
/-- The row of UNKNOWN, which fixes nothing. -/
def unknownRow : Row := ⟨.unknown, 0x0000, 0x0000, 9⟩

theorem admits_iff (op : Word) (id : InstrId) (m0 m1 m2 m3 b0 b1 b2 b3 : Nibble) (p : Nat) :
    Row.admits ⟨id, catNibbles m0 m1 m2 m3, catNibbles b0 b1 b2 b3, p⟩ op = true ↔
      nib0 op &&& m0 = b0 ∧ nib1 op &&& m1 = b1 ∧ nib2 op &&& m2 = b2 ∧ nib3 op &&& m3 = b3 := by
  simp [Row.admits, and_eq_iff]

/-- A nibble under the mask 0xF is itself. -/
theorem nibble_and_F (a : Nibble) : a &&& 15#4 = a := BitVec.and_allOnes

section
variable (op : Word) (id : InstrId) (b0 b2 b3 : Nibble) (p : Nat)

@[simp] theorem admits_majorRow : (majorRow id b0 p).admits op = true ↔ nib0 op = b0 := by
  refine (admits_iff op id 0xF 0 0 0 b0 0 0 0 p).trans ?_
  simp [nibble_and_F]
@[simp] theorem admits_nib2Row : (nib2Row id b0 b2).admits op = true ↔ nib0 op = b0 ∧ nib2 op = b2 := by
  refine (admits_iff op id 0xF 0 0xF 0 b0 0 b2 0 1).trans ?_
  simp [nibble_and_F]
@[simp] theorem admits_nib3Row : (nib3Row id b0 b3).admits op = true ↔ nib0 op = b0 ∧ nib3 op = b3 := by
  refine (admits_iff op id 0xF 0 0 0xF b0 0 0 b3 1).trans ?_
  simp [nibble_and_F]
@[simp] theorem admits_byteRow :
    (byteRow id b0 b2 b3).admits op = true ↔ nib0 op = b0 ∧ nib2 op = b2 ∧ nib3 op = b3 := by
  refine (admits_iff op id 0xF 0 0xF 0xF b0 0 b2 b3 1).trans ?_
  simp [nibble_and_F]
@[simp] theorem admits_unknownRow : unknownRow.admits op = true := by simp [unknownRow, Row.admits]

@[simp] theorem majorRow_id : (majorRow id b0 p).id = id := rfl
@[simp] theorem nib2Row_id : (nib2Row id b0 b2).id = id := rfl
@[simp] theorem nib3Row_id : (nib3Row id b0 b3).id = id := rfl
@[simp] theorem byteRow_id : (byteRow id b0 b2 b3).id = id := rfl
@[simp] theorem unknownRow_id : unknownRow.id = .unknown := rfl
end

theorem rowsOfMajor_0 : rowsOfMajor 0x0 =
    [nib2Row .scd 0x0 0xC, byteRow .cls 0x0 0xE 0x0, byteRow .ret 0x0 0xE 0xE, byteRow .scr 0x0 0xF 0xB,
      byteRow .scl 0x0 0xF 0xC, byteRow .low 0x0 0xF 0xE, byteRow .high 0x0 0xF 0xF, unknownRow] := by decide
theorem rowsOfMajor_8 : rowsOfMajor 0x8 =
    [nib3Row .ldVxVy 0x8 0x0, nib3Row .orVxVy 0x8 0x1, nib3Row .andVxVy 0x8 0x2, nib3Row .xorVxVy 0x8 0x3,
      nib3Row .addVxVy 0x8 0x4, nib3Row .subVxVy 0x8 0x5, nib3Row .shr 0x8 0x6, nib3Row .subnVxVy 0x8 0x7,
      nib3Row .shl 0x8 0xE, unknownRow] := by decide
theorem rowsOfMajor_D : rowsOfMajor 0xD = [nib3Row .drwExt 0xD 0x0, majorRow .drw 0xD 2, unknownRow] := by decide
theorem rowsOfMajor_E : rowsOfMajor 0xE =
    [byteRow .skp 0xE 0x9 0xE, byteRow .sknp 0xE 0xA 0x1, unknownRow] := by decide
theorem rowsOfMajor_F : rowsOfMajor 0xF =
    [byteRow .ldVxDt 0xF 0x0 0x7, byteRow .ldVxK 0xF 0x0 0xA, byteRow .ldDtVx 0xF 0x1 0x5, byteRow .ldStVx 0xF 0x1 0x8,
      byteRow .addIVx 0xF 0x1 0xE, byteRow .ldFVx 0xF 0x2 0x9, byteRow .ldHfVx 0xF 0x3 0x0, byteRow .ldBVx 0xF 0x3 0x3,
      byteRow .ldMiVx 0xF 0x5 0x5, byteRow .ldVxMi 0xF 0x6 0x5, unknownRow] := by decide

/-! ### The procedure and the table agree (R73, R78) -/

/-- The low byte is its two nibbles, as a selector under majors 0xE and 0xF. -/
theorem lowByte_eq_iff (op : Word) (kk : Byte) :
    lowByte op = kk ↔ nib2 op = kk.extractLsb' 4 4 ∧ nib3 op = kk.extractLsb' 0 4 := by
  simp only [← BitVec.toNat_inj, toNat_lowByte, toNat_nib2, toNat_nib3, BitVec.extractLsb'_toNat,
    Nat.shiftRight_eq_div_pow]
  omega

/-- A major whose instruction has no selector has one row before UNKNOWN's. -/
theorem tableId_of_majorRow {op : Word} {b0 : Nibble} {id : InstrId} (h : nib0 op = b0)
    (hrows : rowsOfMajor b0 = [majorRow id b0 1, unknownRow]) : tableId op = id := by
  simp [tableId_eq_firstMatch h hrows (by simp [majorRow, unknownRow]), firstMatch, h]

section
variable {op : Word}

theorem decodeMajor0_id (h : nib0 op = 0x0) : (decodeMajor0 op).id = tableId op := by
  rw [tableId_eq_firstMatch h rowsOfMajor_0 (by decide)]
  simp only [decodeMajor0, apply_ite Instr.id]
  simp [firstMatch, h, Instr.id]
theorem decodeMajor8_id (h : nib0 op = 0x8) : (decodeMajor8 op).id = tableId op := by
  rw [tableId_eq_firstMatch h rowsOfMajor_8 (by decide)]
  simp only [decodeMajor8, apply_ite Instr.id]
  simp [firstMatch, h, Instr.id]
theorem decodeMajorD_id (h : nib0 op = 0xD) : (decodeMajorD op).id = tableId op := by
  rw [tableId_eq_firstMatch h rowsOfMajor_D (by decide)]
  simp only [decodeMajorD, apply_ite Instr.id]
  simp [firstMatch, h, Instr.id]
theorem decodeMajorE_id (h : nib0 op = 0xE) : (decodeMajorE op).id = tableId op := by
  rw [tableId_eq_firstMatch h rowsOfMajor_E (by decide)]
  simp only [decodeMajorE, apply_ite Instr.id]
  simp [firstMatch, h, Instr.id, lowByte_eq_iff]
theorem decodeMajorF_id (h : nib0 op = 0xF) : (decodeMajorF op).id = tableId op := by
  rw [tableId_eq_firstMatch h rowsOfMajor_F (by decide)]
  simp only [decodeMajorF, apply_ite Instr.id]
  simp [firstMatch, h, Instr.id, lowByte_eq_iff]
end

/-- Settles O3, by the sixteen majors. -/
theorem decoderAgreesWithOpcodeTable : Obligations.DecoderAgreesWithOpcodeTable := by
  intro op
  rcases nibble_cases (nib0 op) with h|h|h|h|h|h|h|h|h|h|h|h|h|h|h|h
  · rw [decode_major0 _ h, decodeMajor0_id h]
  · rw [decode_major1 _ h, tableId_of_majorRow h (id := .jp) (by decide)]; rfl
  · rw [decode_major2 _ h, tableId_of_majorRow h (id := .call) (by decide)]; rfl
  · rw [decode_major3 _ h, tableId_of_majorRow h (id := .seVxKk) (by decide)]; rfl
  · rw [decode_major4 _ h, tableId_of_majorRow h (id := .sneVxKk) (by decide)]; rfl
  · rw [decode_major5 _ h, tableId_of_majorRow h (id := .seVxVy) (by decide)]; rfl
  · rw [decode_major6 _ h, tableId_of_majorRow h (id := .ldVxKk) (by decide)]; rfl
  · rw [decode_major7 _ h, tableId_of_majorRow h (id := .addVxKk) (by decide)]; rfl
  · rw [decode_major8 _ h, decodeMajor8_id h]
  · rw [decode_major9 _ h, tableId_of_majorRow h (id := .sneVxVy) (by decide)]; rfl
  · rw [decode_majorA _ h, tableId_of_majorRow h (id := .ldI) (by decide)]; rfl
  · rw [decode_majorB _ h, tableId_of_majorRow h (id := .jpV0) (by decide)]; rfl
  · rw [decode_majorC _ h, tableId_of_majorRow h (id := .rnd) (by decide)]; rfl
  · rw [decode_majorD _ h, decodeMajorD_id h]
  · rw [decode_majorE _ h, decodeMajorE_id h]
  · rw [decode_majorF _ h, decodeMajorF_id h]

/-! ### Encoding a decoded word (R71, R73) -/

section
variable {op : Word}

theorem catNibbles_of_nibs {b0 b1 b2 b3 : Nibble} (h0 : nib0 op = b0) (h1 : nib1 op = b1) (h2 : nib2 op = b2)
    (h3 : nib3 op = b3) : catNibbles b0 b1 b2 b3 = op := by
  subst h0 h1 h2 h3; exact catNibbles_nibs op

theorem catByte_of_fields {b0 x : Nibble} {kk : Byte} (h0 : nib0 op = b0) (hx : nib1 op = x) (hk : lowByte op = kk) :
    catByte b0 x kk = op := by
  subst h0 hx hk; exact catByte_fields op

theorem catAddr_of_fields {b0 : Nibble} {nnn : Addr12} (h0 : nib0 op = b0) (ha : addrField op = nnn) :
    catAddr b0 nnn = op := by
  subst h0 ha; exact catAddr_fields op

theorem encode_decodeMajor0 (h : nib0 op = 0x0) : encode (decodeMajor0 op) = op := by
  unfold decodeMajor0
  split_ifs with hsel hsel hsel hsel hsel hsel hsel
  case pos => exact catNibbles_of_nibs h rfl hsel rfl
  case neg => rfl
  all_goals exact catNibbles_of_nibs h rfl hsel.1 hsel.2

theorem encode_decodeMajor8 (h : nib0 op = 0x8) : encode (decodeMajor8 op) = op := by
  unfold decodeMajor8
  split_ifs with hsel hsel hsel hsel hsel hsel hsel hsel hsel
  case neg => rfl
  all_goals exact catNibbles_of_nibs h rfl rfl hsel

theorem encode_decodeMajorD (h : nib0 op = 0xD) : encode (decodeMajorD op) = op := by
  unfold decodeMajorD
  split_ifs with hsel
  · exact catNibbles_of_nibs h rfl rfl hsel
  · exact catNibbles_of_nibs h rfl rfl rfl

theorem encode_decodeMajorE (h : nib0 op = 0xE) : encode (decodeMajorE op) = op := by
  unfold decodeMajorE
  split_ifs with hsel hsel
  case neg => rfl
  all_goals exact catByte_of_fields h rfl hsel

theorem encode_decodeMajorF (h : nib0 op = 0xF) : encode (decodeMajorF op) = op := by
  unfold decodeMajorF
  split_ifs with hsel hsel hsel hsel hsel hsel hsel hsel hsel hsel
  case neg => rfl
  all_goals exact catByte_of_fields h rfl hsel

variable (op)

theorem encode_decode : encode (decode op) = op := by
  rcases nibble_cases (nib0 op) with h|h|h|h|h|h|h|h|h|h|h|h|h|h|h|h
  · rw [decode_major0 _ h]; exact encode_decodeMajor0 h
  · rw [decode_major1 _ h]; exact catAddr_of_fields h rfl
  · rw [decode_major2 _ h]; exact catAddr_of_fields h rfl
  · rw [decode_major3 _ h]; exact catByte_of_fields h rfl rfl
  · rw [decode_major4 _ h]; exact catByte_of_fields h rfl rfl
  · rw [decode_major5 _ h]; exact catNibbles_of_nibs h rfl rfl rfl
  · rw [decode_major6 _ h]; exact catByte_of_fields h rfl rfl
  · rw [decode_major7 _ h]; exact catByte_of_fields h rfl rfl
  · rw [decode_major8 _ h]; exact encode_decodeMajor8 h
  · rw [decode_major9 _ h]; exact catNibbles_of_nibs h rfl rfl rfl
  · rw [decode_majorA _ h]; exact catAddr_of_fields h rfl
  · rw [decode_majorB _ h]; exact catAddr_of_fields h rfl
  · rw [decode_majorC _ h]; exact catByte_of_fields h rfl rfl
  · rw [decode_majorD _ h]; exact encode_decodeMajorD h
  · rw [decode_majorE _ h]; exact encode_decodeMajorE h
  · rw [decode_majorF _ h]; exact encode_decodeMajorF h

/-- UNKNOWN keeps the word it was decoded from. -/
theorem eq_of_decode_eq_unknown {w : Word} (h : decode op = .unknown w) : w = op := by
  rw [← encode_decode op, h, encode]

/-- A decoded DRW has a row to draw, since Dxy0 is DRW_EXT (R162). -/
theorem height_ne_zero_of_decode_eq_drw {x y n : Nibble} (h : decode op = .drw x y n) : n ≠ 0 := by
  have hop : catNibbles 0xD x y n = op := by rw [← encode_decode op, h, encode]
  rintro rfl
  rw [← hop, decode_majorD _ (nib0_catNibbles ..), decodeMajorD, if_pos (nib3_catNibbles ..)] at h
  cases h

theorem decode_wf : (decode op).wf = true := by
  cases h : decode op
  case drw x y n => exact bne_iff_ne.2 (height_ne_zero_of_decode_eq_drw op h)
  case unknown w =>
    rw [eq_of_decode_eq_unknown op h, Instr.wf, beq_iff_eq, ← decoderAgreesWithOpcodeTable, h, Instr.id]
  all_goals rfl
end

/-- Settles O2: encode undoes decode, major by major. -/
theorem encodeOfDecodeIsIdentity : Obligations.EncodeOfDecodeIsIdentity :=
  fun op => ⟨encode_decode op, decode_wf op⟩

/-! ### Decoding an encoded instruction (R73, R74) -/

/-- A word that matches no row but UNKNOWN's decodes to UNKNOWN, since table and procedure agree. -/
theorem decode_of_tableId_unknown {op : Word} (h : tableId op = .unknown) : decode op = .unknown op := by
  rw [← decoderAgreesWithOpcodeTable] at h
  cases hd : decode op
  case unknown w => rw [eq_of_decode_eq_unknown op hd]
  all_goals rw [hd] at h; cases h

/-- Settles O1, by the formats of R71 and, where a selector decides, by major. -/
theorem decodeOfEncodeIsIdentity : Obligations.DecodeOfEncodeIsIdentity := by
  intro i hw
  cases i
  case scd | cls | ret | scr | scl | low | high => simp [encode, decode_major0, decodeMajor0]
  case jp | call | ldI | jpV0 => simp [encode, decode]
  case seVxKk | sneVxKk | ldVxKk | addVxKk | rnd => simp [encode, decode]
  case seVxVy | sneVxVy => simp [encode, decode]
  case ldVxVy | orVxVy | andVxVy | xorVxVy | addVxVy | subVxVy | shr | subnVxVy | shl =>
    simp [encode, decode_major8, decodeMajor8]
  case drwExt => simp [encode, decode_majorD, decodeMajorD]
  case drw x y n =>
    have hn : ¬n = 0#4 := bne_iff_ne.1 hw
    simp [encode, decode_majorD, decodeMajorD, hn]
  case skp | sknp => simp [encode, decode_majorE, decodeMajorE]
  case ldVxDt | ldVxK | ldDtVx | ldStVx | addIVx | ldFVx | ldHfVx | ldBVx | ldMiVx | ldVxMi =>
    simp [encode, decode_majorF, decodeMajorF]
  case unknown op => exact decode_of_tableId_unknown (beq_iff_eq.1 hw)

/-- Settles O4, by evaluating the decoder on the thirty-two words. -/
theorem specWordsDecode : Obligations.SpecWordsDecode := by
  unfold Obligations.SpecWordsDecode
  decide

end Sys2Proof

namespace Sys2Proof.Machine

/-! ### What the encoding leaves open has no effect (R75, R76) -/

/-- Settles O7: a step halts as it is, raises the fetch fault, or runs a decoded and so well-formed instruction. -/
theorem everyStepAnswersNextState : Obligations.EveryStepAnswersNextState := by
  intro s
  rcases step_cases s with ⟨_, hstep⟩ | ⟨_, _, hstep⟩ | ⟨_, op, _, hstep⟩
  · exact ⟨s, hstep⟩
  · exact ⟨_, hstep⟩
  · rcases exec_completes_or_raises (decode op) s.tick (decode_wf op) with ⟨_, t, hexec, _⟩ | ⟨_, _, _, _, hexec⟩
    · exact ⟨t, hstep.trans hexec⟩
    · exact ⟨_, hstep.trans hexec⟩

theorem exec_ret_congr (b1 b1' : Nibble) (s : State) (h : s.sp ≠ 0) : exec (.ret b1) s = exec (.ret b1') s := by
  have hsp : s.sp.val ≠ 0 := Fin.val_ne_of_ne h
  exact (execRet_ok b1 s hsp).trans (execRet_ok b1' s hsp).symm

/-- A glyph is five rows high whatever n (R164). -/
theorem exec_drw_font_congr (x y n n' : Nibble) (s : State) (hm : s.drawFont = true) (hi : s.i.toNat ≤ 15) :
    exec (.drw x y n) s = exec (.drw x y n') s :=
  (execDrw_font_ok x y n s hm hi).trans (execDrw_font_ok x y n' s hm hi).symm

/-- Settles O5: no meaning takes the nibble as an argument, but for the two that may record the opcode of a fault. -/
theorem unusedNibblesDoNotMatter : Obligations.UnusedNibblesDoNotMatter := by
  intro x y n x' y' n' s
  exact ⟨rfl, rfl, rfl, rfl, rfl, rfl, rfl, rfl, rfl, rfl, rfl, rfl, rfl,
    exec_ret_congr x x' s, exec_drw_font_congr x y n n' s⟩

end Sys2Proof.Machine
end

section
/-! Family 40_skip: a skip writes pc + 4 or pc + 2 as its comparison says, and nothing else. -/

namespace Sys2Proof.Machine

/-- The next state of a skip, by the condition its flag decides rather than by the flag. -/
theorem State.skipIf_of_iff (s : State) {c : Bool} {p : Prop} [Decidable p] (h : c = true ↔ p) :
    s.skipIf c = { s with pc := if p then s.pc + 4 else s.pc + 2 } := by
  simp only [State.skipIf, State.setPc, h]

/-! ### The four skips (R101 to R104) -/

section
variable (x y b3 : Nibble) (kk : Byte) (s : State)

theorem exec_seVxKk :
    exec (.seVxKk x kk) s = .next { s with pc := if s.reg x = kk then s.pc + 4 else s.pc + 2 } :=
  congrArg Host.Outcome.next (s.skipIf_of_iff beq_iff_eq)

theorem exec_sneVxKk :
    exec (.sneVxKk x kk) s = .next { s with pc := if s.reg x ≠ kk then s.pc + 4 else s.pc + 2 } :=
  congrArg Host.Outcome.next (s.skipIf_of_iff bne_iff_ne)

theorem exec_seVxVy :
    exec (.seVxVy x y b3) s = .next { s with pc := if s.reg x = s.reg y then s.pc + 4 else s.pc + 2 } :=
  congrArg Host.Outcome.next (s.skipIf_of_iff beq_iff_eq)

theorem exec_sneVxVy :
    exec (.sneVxVy x y b3) s = .next { s with pc := if s.reg x ≠ s.reg y then s.pc + 4 else s.pc + 2 } :=
  congrArg Host.Outcome.next (s.skipIf_of_iff bne_iff_ne)

end

/-- Settles O24: the words are the encodings of the two skips, and the comparison with kk decides the next pc. -/
theorem skipsOnImmediate : Obligations.SkipsOnImmediate := fun x kk s =>
  ⟨decodeOfEncodeIsIdentity (.seVxKk x kk) rfl, exec_seVxKk x kk s,
    decodeOfEncodeIsIdentity (.sneVxKk x kk) rfl, exec_sneVxKk x kk s⟩

/-- Settles O25: the words are the encodings of the two skips, b3 kept, and V[x] against V[y] decides the next pc. -/
theorem skipsOnRegisters : Obligations.SkipsOnRegisters := fun x y b3 s =>
  ⟨decodeOfEncodeIsIdentity (.seVxVy x y b3) rfl, exec_seVxVy x y b3 s,
    decodeOfEncodeIsIdentity (.sneVxVy x y b3) rfl, exec_sneVxVy x y b3 s⟩

end Sys2Proof.Machine
end

section
/-! Family 41_alu: the moves, the logic, the arithmetic and the shifts, each one of two tails: V[x] written, or V[x] and
then VF written, before pc advances. -/

namespace Sys2Proof.Machine

/-! ### The registers after each of the two tails (R21, R110) -/

section
variable (s : State) (x : Nibble) (b : Byte) (f : Bool) (r : Nibble)

theorem State.reg_setReg_advance : (s.setReg x b).advance.reg r = if r = x then b else s.reg r := by
  rw [State.advance_reg, State.reg_setReg]

theorem State.toNat_reg_setRegFlag_advance :
    ((s.setRegFlag x b f).advance.reg r).toNat =
      if r = 0xF then (flagByte f).toNat else if r = x then b.toNat else (s.reg r).toNat := by
  rw [State.advance_reg, State.reg_setRegFlag, apply_ite BitVec.toNat, apply_ite BitVec.toNat]

end

/-! ### The flags as numbers (R119, R121, R122) -/

section
variable (a b : Byte)

theorem toNat_flagByte_carry : (flagByte (carry a b)).toNat = if a.toNat + b.toNat > 255 then 1 else 0 := by
  simp only [toNat_flagByte, carry, decide_eq_true_eq]

theorem toNat_flagByte_noBorrow : (flagByte (noBorrow a b)).toNat = if a.toNat > b.toNat then 1 else 0 := by
  simp only [toNat_flagByte, noBorrow, decide_eq_true_eq]

theorem toNat_flagByte_eq_toNat (f : Bool) : (flagByte f).toNat = f.toNat := by cases f <;> rfl

theorem toNat_flagByte_shiftedOutRight : (flagByte (shiftedOutRight a)).toNat = a.toNat % 2 := by
  rw [toNat_flagByte_eq_toNat, shiftedOutRight, ← BitVec.testBit_toNat, Nat.toNat_testBit, Nat.pow_zero, Nat.div_one]

/-- Bit 7 is the whole quotient by 128, since a byte is below 256. -/
theorem toNat_flagByte_shiftedOutLeft : (flagByte (shiftedOutLeft a)).toNat = a.toNat / 128 := by
  have ha : a.toNat / 128 < 2 := Nat.div_lt_of_lt_mul a.isLt
  rw [toNat_flagByte_eq_toNat, shiftedOutLeft, ← BitVec.testBit_toNat, Nat.toNat_testBit]
  exact Nat.mod_eq_of_lt ha

/-- The byte difference as the integers' difference mod 256, which is not cut off at 0 (R118, R120). -/
theorem toNat_sub_byte : ((a - b).toNat : Int) = ((a.toNat : Int) - b.toNat) % 256 := by
  have := a.isLt
  have := b.isLt
  rw [BitVec.toNat_sub]
  omega

/-- SUB and SUBN are this one tail, with minuend and subtrahend exchanged (R118, R120). -/
theorem State.toNat_reg_sub_noBorrow (s : State) (x r : Nibble) :
    (((s.setRegFlag x (a - b) (noBorrow a b)).advance.reg r).toNat : Int) =
      if r = 0xF then (if a.toNat > b.toNat then 1 else 0)
      else if r = x then ((a.toNat : Int) - b.toNat) % 256 else (s.reg r).toNat := by
  rw [State.toNat_reg_setRegFlag_advance, toNat_flagByte_noBorrow, ← toNat_sub_byte,
    Nat.cast_ite, Nat.cast_ite, Nat.cast_ite, Nat.cast_one, Nat.cast_zero]

end

/-! ### The obligations -/

/-- Settles O26: both have the tail without a flag, and byte addition is addition mod 256. -/
theorem immediateMoveAndAdd : Obligations.ImmediateMoveAndAdd := by
  intro x kk s
  refine ⟨decodeOfEncodeIsIdentity (.ldVxKk x kk) rfl, ⟨_, rfl, s.reg_setReg_advance x kk, rfl, rfl⟩,
    decodeOfEncodeIsIdentity (.addVxKk x kk) rfl, ⟨_, rfl, fun r => ?_, rfl, rfl⟩⟩
  rw [State.reg_setReg_advance, apply_ite BitVec.toNat, BitVec.toNat_add]

/-- Settles O27: all four have the tail without a flag, and the logic acts on each bit alone. -/
theorem moveAndLogic : Obligations.MoveAndLogic := by
  intro x y s
  refine ⟨decodeOfEncodeIsIdentity (.ldVxVy x y) rfl, ⟨_, rfl, s.reg_setReg_advance x _, rfl, rfl⟩,
    decodeOfEncodeIsIdentity (.orVxVy x y) rfl, ⟨_, rfl, fun r b => ?_, rfl, rfl⟩,
    decodeOfEncodeIsIdentity (.andVxVy x y) rfl, ⟨_, rfl, fun r b => ?_, rfl, rfl⟩,
    decodeOfEncodeIsIdentity (.xorVxVy x y) rfl, ⟨_, rfl, fun r b => ?_, rfl, rfl⟩⟩
  · rw [State.reg_setReg_advance, apply_ite (BitVec.getLsbD · b), BitVec.getLsbD_or]
  · rw [State.reg_setReg_advance, apply_ite (BitVec.getLsbD · b), BitVec.getLsbD_and]
  · rw [State.reg_setReg_advance, apply_ite (BitVec.getLsbD · b), BitVec.getLsbD_xor]

/-- Settles O28: the tail with the carry, written after the sum. -/
theorem addWithCarry : Obligations.AddWithCarry := by
  intro x y s
  refine ⟨decodeOfEncodeIsIdentity (.addVxVy x y) rfl, _, rfl, fun r => ?_, rfl, rfl⟩
  rw [State.toNat_reg_setRegFlag_advance, toNat_flagByte_carry, BitVec.toNat_add]

/-- Settles O29: one subtraction tail, read with V[x] and with V[y] as the minuend. -/
theorem subtractBothWays : Obligations.SubtractBothWays := fun x y s =>
  ⟨decodeOfEncodeIsIdentity (.subVxVy x y) rfl,
    ⟨_, rfl, State.toNat_reg_sub_noBorrow (s.reg x) (s.reg y) s x, rfl, rfl⟩,
    decodeOfEncodeIsIdentity (.subnVxVy x y) rfl,
    ⟨_, rfl, State.toNat_reg_sub_noBorrow (s.reg y) (s.reg x) s x, rfl, rfl⟩⟩

/-- Settles O30: a shift by one is a division or a multiplication by 2, and the bit it drops is the remainder by 2 or the
quotient by 128. -/
theorem shiftsByOne : Obligations.ShiftsByOne := by
  intro x y s
  refine ⟨decodeOfEncodeIsIdentity (.shr x y) rfl, ⟨_, rfl, fun r => ?_, rfl, rfl⟩,
    decodeOfEncodeIsIdentity (.shl x y) rfl, ⟨_, rfl, fun r => ?_, rfl, rfl⟩⟩
  · rw [State.toNat_reg_setRegFlag_advance, toNat_flagByte_shiftedOutRight, BitVec.toNat_ushiftRight,
      Nat.shiftRight_eq_div_pow, Nat.pow_one]
  · rw [State.toNat_reg_setRegFlag_advance, toNat_flagByte_shiftedOutLeft, BitVec.toNat_shiftLeft,
      Nat.shiftLeft_eq, Nat.pow_one]

end Sys2Proof.Machine
end

section
/-! Family 42_control_transfer: a jump writes pc alone, CALL and RET move pc through the stack, and a word that jumps to
itself holds the machine in place. -/

namespace Sys2Proof.Machine

/-! ### The call stack (R26, R27) -/

section
variable (s : State) (w : Word)

/-- A push writes the stack and sp, and nothing else. -/
theorem State.push_frame : { s.push w with sp := s.sp, stack := s.stack } = s := by
  unfold State.push
  split <;> rfl

theorem State.slot_push (h : s.sp.val < 16) (j : Fin 16) :
    (s.push w).stack[j] = if j.val = s.sp.val then w else s.stack[j] := by
  simp only [State.push_stack s w h, Fin.getElem_fin, Vector.getElem_set, eq_comm]

/-- A pop takes back the value just pushed and sp as it was; the slot keeps the value. -/
theorem State.pop_push (h : s.sp.val < 16) : (s.push w).pop = (w, { s with stack := (s.push w).stack }) := by
  simp [State.push, State.pop, h]

theorem State.pop_setPc (p : Word) : (s.setPc p).pop = (s.pop.1, s.pop.2.setPc p) := rfl

/-- A RET right behind a push, pc having been moved between the two as CALL moves it. -/
theorem execRet_setPc_push (b1 : Nibble) (p : Word) (h : s.sp.val < 16) :
    execRet b1 ((s.push w).setPc p) = .next { s with stack := (s.push w).stack, pc := w } := by
  have hsp : ((s.push w).setPc p).sp.val ≠ 0 := by
    rw [State.setPc_sp, s.push_sp_val w h]
    omega
  rw [execRet_ok b1 _ hsp, State.pop_setPc, s.pop_push w h]
  rfl

end

/-! ### Jumping to an address (R130, R133) -/

/-- The farthest target is 0xFFF + 0xFF, so the sum does not wrap. -/
theorem toNat_jpV0_target (nnn : Addr12) (b : Byte) :
    (nnn.zeroExtend 16 + b.zeroExtend 16).toNat = nnn.toNat + b.toNat := by
  bv_omega

/-- A jump to where pc already is changes nothing. -/
theorem exec_jp_self (nnn : Addr12) (s : State) (h : s.pc = nnn.zeroExtend 16) : exec (.jp nnn) s = .next s := by
  change Host.Outcome.next (s.setPc (nnn.zeroExtend 16)) = .next s
  rw [← h]
  rfl

/-! ### A finished program (R240) -/

theorem State.finished_tick {s : State} (h : s.finished) : s.tick.finished := h

/-- The fetched word jumps to itself, so phase 1 is all that the step does. -/
theorem step_of_finished {s : State} (h : s.finished) : step s = .next s.tick := by
  obtain ⟨hsafe, nnn, hfetch, hpc⟩ := h
  rw [step_of_fetch s _ hsafe hfetch, decodeOfEncodeIsIdentity (.jp nnn) rfl]
  exact exec_jp_self nnn s.tick hpc

/-! ### The obligations -/

/-- Settles O33: with room the meaning is a push and a jump, on a full stack a raise. -/
theorem callPushesTheReturnAddress : Obligations.CallPushesTheReturnAddress := by
  intro nnn s
  refine ⟨decodeOfEncodeIsIdentity (.call nnn) rfl, fun h => ?_, execCall_fault nnn s⟩
  exact ⟨_, execCall_ok nnn s h, BitVec.toNat_setWidth_of_le (by decide), s.push_sp_val _ h, s.slot_push _ h,
    congrArg (State.setPc · s.pc) (s.push_frame _)⟩

/-- Settles O34: with sp above 0 the meaning is a pop and a jump to the value popped, on an empty stack a raise. -/
theorem retPopsTheReturnAddress : Obligations.RetPopsTheReturnAddress := by
  intro b1 s
  refine ⟨decodeOfEncodeIsIdentity (.ret b1) rfl, fun h => ?_, execRet_fault b1 s⟩
  refine ⟨_, execRet_ok b1 s h, rfl, fun j hj => ?_, rfl⟩
  simp only [State.setPc_pc, State.pop_value s (by omega), Fin.getElem_fin, hj]

/-- Settles O35: the RET pops what the CALL pushed. -/
theorem callThenRetComesBack : Obligations.CallThenRetComesBack := fun nnn b1 s h =>
  ⟨_, _, execCall_ok nnn s h, execRet_setPc_push s _ b1 _ h, rfl, rfl, s.slot_push _ h, rfl⟩

/-- Settles O53: the step is phase 1 alone, and that touches neither pc, Memory nor the fault record. -/
theorem finishedProgramOnlyCountsDown : Obligations.FinishedProgramOnlyCountsDown :=
  fun s h => ⟨s.tick, step_of_finished h, State.finished_tick h, rfl⟩

/-- Settles O32: both words are encodings, and both meanings write pc alone. -/
theorem jumpsWritePcOnly : Obligations.JumpsWritePcOnly := fun nnn s =>
  ⟨decodeOfEncodeIsIdentity (.jp nnn) rfl, ⟨_, rfl, BitVec.toNat_setWidth_of_le (by decide), rfl⟩,
    decodeOfEncodeIsIdentity (.jpV0 nnn) rfl, ⟨_, rfl, toNat_jpV0_target nnn (s.reg 0), rfl⟩⟩

end Sys2Proof.Machine
end

section
/-! Family 43_key_timer: the key skips, the moves between V[x] and a timer, and the timers along a run of steps. -/

namespace Sys2Proof.Machine

/-! ### The key skips (R140, R141) -/

section
variable (x : Nibble) (s : State)

/-- The slot a value up to 15 names is the key of that number. -/
theorem State.keyAt_ofNat {a : Nat} (k : Fin 16) (h : a = k.val) : s.keyAt (BitVec.ofNat 4 a) = s.key[k] := by
  subst h
  simp only [State.keyAt, BitVec.toNat_ofNat, Nat.mod_eq_of_lt k.isLt, Fin.getElem_fin]

theorem exec_skp_of_key (k : Fin 16) (h : (s.reg x).toNat = k.val) :
    exec (.skp x) s = .next { s with pc := if s.key[k] = true then s.pc + 4 else s.pc + 2 } := by
  have hkey : s.keyAt (BitVec.ofNat 4 (s.reg x).toNat) = true ↔ s.key[k] = true := by rw [s.keyAt_ofNat k h]
  exact (execSkp_ok x s (by omega)).trans (congrArg Host.Outcome.next (s.skipIf_of_iff hkey))

theorem exec_sknp_of_key (k : Fin 16) (h : (s.reg x).toNat = k.val) :
    exec (.sknp x) s = .next { s with pc := if s.key[k] = false then s.pc + 4 else s.pc + 2 } := by
  have hkey : (!s.keyAt (BitVec.ofNat 4 (s.reg x).toNat)) = true ↔ s.key[k] = false := by
    rw [s.keyAt_ofNat k h, Bool.not_eq_true']
  exact (execSknp_ok x s (by omega)).trans (congrArg Host.Outcome.next (s.skipIf_of_iff hkey))

end

/-- Settles O36: up to 15 the slot's key decides the next pc, above 15 both meanings are a raise. -/
theorem keySkips : Obligations.KeySkips := fun x s =>
  ⟨decodeOfEncodeIsIdentity (.skp x) rfl, decodeOfEncodeIsIdentity (.sknp x) rfl,
    fun k h => ⟨exec_skp_of_key x s k h, exec_sknp_of_key x s k h⟩,
    fun h => ⟨execSkp_fault x s h, execSknp_fault x s h⟩⟩

/-! ### The timer moves (R142 to R144) -/

/-- Settles O37: the words are the encodings of the three moves, and each meaning is one write and an advance. -/
theorem timerMoves : Obligations.TimerMoves := fun x s =>
  ⟨decodeOfEncodeIsIdentity (.ldVxDt x) rfl, ⟨_, rfl, s.reg_setReg_advance x s.dt, rfl, rfl⟩,
    decodeOfEncodeIsIdentity (.ldDtVx x) rfl, rfl, decodeOfEncodeIsIdentity (.ldStVx x) rfl, rfl⟩

/-! ### The moves after phase 1 of their own step, and a run of steps (R145) -/

section
variable {s : State} {op : Word} {x : Nibble} (hs : s.fault.code = .none) (hf : s.fetch = some op)
include hs hf

theorem step_ldDtVx (hd : decode op = .ldDtVx x) : step s = .next (s.tick.setDt (s.reg x)).advance := by
  rw [step_of_fetch s op hs hf, hd]; rfl

theorem step_ldStVx (hd : decode op = .ldStVx x) : step s = .next (s.tick.setSt (s.reg x)).advance := by
  rw [step_of_fetch s op hs hf, hd]; rfl

theorem step_ldVxDt (hd : decode op = .ldVxDt x) : step s = .next (s.tick.setReg x (countDown s.dt)).advance := by
  rw [step_of_fetch s op hs hf, hd]; rfl

end

/-- A number that falls by 1, and stays at 0, in each of n steps has fallen by n, or is 0. -/
theorem eq_sub_of_falls_each_step (v : Nat → Nat) (n : Nat) (h : ∀ j < n, v (j + 1) = v j - 1) : v n = v 0 - n := by
  induction n with
  | zero => rfl
  | succ n ih => rw [h n n.lt_succ_self, ih fun j hj => h j (Nat.lt_succ_of_lt hj), Nat.sub_sub]

/-- Settles O23: the moves act on the state phase 1 leaves, and over a run each step's fall of O22 adds up. -/
theorem timersInterleaveWithSteps : Obligations.TimersInterleaveWithSteps := by
  refine ⟨fun s op x hs hf => ⟨fun hd => ?_, fun hd => ?_, fun hd => ?_⟩, fun f n hrun => ?_, fun f n hrun => ?_⟩
  · exact ⟨_, step_ldDtVx hs hf hd, rfl⟩
  · exact ⟨_, step_ldStVx hs hf hd, rfl⟩
  · refine ⟨_, step_ldVxDt hs hf hd, ?_⟩
    rw [State.reg_setReg_advance, if_pos rfl, toNat_countDown]
  · refine eq_sub_of_falls_each_step (fun j => (f j).dt.toNat) n fun j hj => ?_
    obtain ⟨hs, hstep, hdt⟩ := hrun j hj
    exact (timersFallByOneEachStep _ _ hs hstep).1 hdt
  · refine eq_sub_of_falls_each_step (fun j => (f j).st.toNat) n fun j hj => ?_
    obtain ⟨hs, hstep, hst⟩ := hrun j hj
    exact (timersFallByOneEachStep _ _ hs hstep).2 hst

end Sys2Proof.Machine
end

section
/-! Family 44_index_memory: the writers of I, the three digits of a byte in Memory, and the block transfers, of which
the load undoes the store. -/

namespace Sys2Proof.Machine

/-! ### The index register (R150 to R152) -/

/-- Settles O38: 12 and 8 bits fit in I, so each load keeps its operand's number. -/
theorem indexLoadsSetTheMode : Obligations.IndexLoadsSetTheMode := fun nnn x s =>
  ⟨decodeOfEncodeIsIdentity (.ldI nnn) rfl, ⟨_, rfl, BitVec.toNat_setWidth_of_le (by decide), rfl, rfl, rfl⟩,
    decodeOfEncodeIsIdentity (.ldFVx x) rfl, ⟨_, rfl, BitVec.toNat_setWidth_of_le (by decide), rfl, rfl, rfl⟩⟩

/-- Settles O39: word addition is addition mod 65536, and the zero-extended byte keeps its number. -/
theorem addToIndexModulo65536 : Obligations.AddToIndexModulo65536 := by
  intro x s
  refine ⟨decodeOfEncodeIsIdentity (.addIVx x) rfl, _, rfl, ?_, rfl, rfl⟩
  rw [State.advance_i, State.setI_i, BitVec.toNat_add, BitVec.toNat_setWidth_of_le (by decide)]

/-! ### Decimal digits (R153) -/

section
variable (b : Byte)

theorem toNat_bcdHundreds : (bcdHundreds b).toNat = b.toNat / 100 % 100 := by
  rw [bcdHundreds, BitVec.toNat_ofNat]
  omega

theorem toNat_bcdTens : (bcdTens b).toNat = b.toNat / 10 % 10 := by
  rw [bcdTens, BitVec.toNat_ofNat]
  omega

theorem toNat_bcdOnes : (bcdOnes b).toNat = b.toNat % 10 := by
  rw [bcdOnes, BitVec.toNat_ofNat]
  omega

end

/-- The three addresses differ, so no write covers another. -/
theorem State.read_writeByte_ea_three (s : State) (b0 b1 b2 : Byte) (a : Nat) (h : s.i.toNat + 2 ≤ 0xFFF) :
    (((s.writeByte (s.ea 0) b0).writeByte (s.ea 1) b1).writeByte (s.ea 2) b2).mem.read a =
      if a = s.i.toNat then b0 else if a = s.i.toNat + 1 then b1 else if a = s.i.toNat + 2 then b2
      else s.mem.read a := by
  have hin (k : Nat) (hk : k ≤ 2) : s.i.toNat + k < 0x1000 := by omega
  simp only [State.writeByte_mem, Memory.read_write, State.ea, hin 0 (by decide), hin 1 (by decide),
    hin 2 (by decide), and_true]
  by_cases h0 : a = s.i.toNat
  · simp [h0]
  · by_cases h1 : a = s.i.toNat + 1
    · simp [h1]
    · simp [h0, h1]

/-- Settles O40: in range the meaning is the three writes, else a raise. -/
theorem bcdStoresThreeDigits : Obligations.BcdStoresThreeDigits := by
  intro x s
  refine ⟨decodeOfEncodeIsIdentity (.ldBVx x) rfl, fun h => ?_, execLdBVx_fault x s⟩
  refine ⟨_, execLdBVx_ok x s h, fun a => ?_, rfl, rfl⟩
  rw [State.advance_mem, s.read_writeByte_ea_three _ _ _ a h]
  simp only [apply_ite BitVec.toNat, toNat_bcdHundreds, toNat_bcdTens, toNat_bcdOnes]

/-! ### Block transfers (R154, R155) -/

section
variable (s : State) (n : Nat)

theorem State.storeRegs_i : (s.storeRegs n).i = s.i :=
  (congrArg State.i (s.storeRegs_frame n) :)

/-- V[k] is at I + k, k counted as a register's number. -/
theorem State.read_storeRegs_reg (k : Nibble) (hi : s.i.toNat + n ≤ 0x1000) (hk : k.toNat < n) :
    (s.storeRegs n).mem.read (s.i.toNat + k.toNat) = s.reg k := by
  rw [s.read_storeRegs_add n _ hi hk, BitVec.ofNat_toNat, BitVec.setWidth_eq]

/-- Outside the block every address reads as before, even where the block runs past the end of Memory. -/
theorem State.read_storeRegs_outside (a : Nat) (ha : a < s.i.toNat ∨ s.i.toNat + n ≤ a) :
    (s.storeRegs n).mem.read a = s.mem.read a := by
  induction n with
  | zero => rfl
  | succ n ih =>
    have hne : a ≠ s.ea n := by rw [State.ea]; omega
    rw [State.storeRegs, State.writeByte_mem, Memory.read_write_other _ _ _ _ hne, ih (by omega)]

end

/-- Settles O41: where the block fits, or is empty, the meaning is the stores, else a raise. -/
theorem blockStoreWritesXRegisters : Obligations.BlockStoreWritesXRegisters := by
  intro x s
  refine ⟨decodeOfEncodeIsIdentity (.ldMiVx x) rfl, fun h => ?_,
    fun hx => execLdMiVx_fault x s (BitVec.toNat_ne.1 hx)⟩
  have hfit : x.toNat = 0 ∨ s.i.toNat + x.toNat - 1 ≤ 0xFFF := h.imp_left (congrArg BitVec.toNat)
  exact ⟨_, execLdMiVx_ok x s hfit, fun k hk => s.read_storeRegs_reg _ k (by omega) hk, s.read_storeRegs_outside _,
    congrArg (· + 2) (s.storeRegs_pc _), congrArg (State.setPc · s.pc) (s.storeRegs_frame _)⟩

/-- Settles O42: where the block fits, or is empty, the meaning is the loads, else a raise. -/
theorem blockLoadReadsXRegisters : Obligations.BlockLoadReadsXRegisters := by
  intro x s
  refine ⟨decodeOfEncodeIsIdentity (.ldVxMi x) rfl, fun h => ?_,
    fun hx => execLdVxMi_fault x s (BitVec.toNat_ne.1 hx)⟩
  exact ⟨_, execLdVxMi_ok x s (h.imp_left (congrArg BitVec.toNat)), fun r => s.reg_loadRegs _ r x.isLt.le,
    congrArg (·.pc + 2) (s.loadRegs_frame _), congrArg (State.setPc · s.pc) (s.loadRegs_frame _)⟩

/-- Settles O43: the store keeps I, so the load does not fault either and reads the addresses just written. -/
theorem blockLoadRestoresBlockStore : Obligations.BlockLoadRestoresBlockStore := by
  intro x s w h
  have hfit : x.toNat = 0 ∨ s.i.toNat + x.toNat - 1 ≤ 0xFFF := h.imp_left (congrArg BitVec.toNat)
  have hi : { (s.storeRegs x.toNat).advance with v := w }.i = s.i := s.storeRegs_i _
  refine ⟨_, _, execLdMiVx_ok x s hfit, execLdVxMi_ok x _ (by rwa [hi]), fun r hr => ?_⟩
  rw [State.advance_reg, State.reg_loadRegs _ _ _ x.isLt.le, if_pos hr, hi]
  exact s.read_storeRegs_reg _ r (by omega) hr

end Sys2Proof.Machine
end

section
/-! Family 45_display: who writes the framebuffer, the clear, and the draw, which in both modes is one exclusive or per
pixel and so undoes itself. -/

namespace Sys2Proof.Machine

/-! ### The writers of the framebuffer, and the clear (R160, R161) -/

theorem exec_fb_of_ne_cls_drw {i : Instr} {s t : State} (h : exec i s = .next t) (hcls : ∀ b1, i ≠ .cls b1)
    (hdrw : ∀ x y n, i ≠ .drw x y n) : t.fb = s.fb := by
  have hframe := exec_frame i s t h
  cases i
  case cls b1 => exact absurd rfl (hcls b1)
  case drw x y n => exact absurd rfl (hdrw x y n)
  all_goals exact (congrArg State.fb hframe :)

/-- Settles O18, by the frames of the instructions. -/
theorem framebufferWrittenOnlyByClsAndDrw : Obligations.FramebufferWrittenOnlyByClsAndDrw :=
  fun _ _ _ => exec_fb_of_ne_cls_drw

/-- Settles O45: the meaning puts the blank display in place and advances. -/
theorem clearScreenZeroesEveryPixel : Obligations.ClearScreenZeroesEveryPixel := fun b1 _ =>
  ⟨decodeOfEncodeIsIdentity (.cls b1) rfl, _, rfl, Framebuffer.pixel_blank, rfl, rfl⟩

/-! ### What a draw leaves (R160, R162, R165 (a), (b)) -/

/-- `t` is the state after a draw in `s` that puts `bit` on each pixel; both modes share it. -/
structure DrawOutcome (s : State) (bit : Fin 64 → Fin 32 → Bool) (t : State) : Prop where
  pixel : ∀ px py, t.fb.pixel px py = (s.fb.pixel px py ^^ bit px py)
  flag : t.reg 0xF = 0 ∨ t.reg 0xF = 1
  collision : t.reg 0xF = 1 ↔ ∃ px py, s.fb.pixel px py = true ∧ bit px py = true
  reg : ∀ r, r ≠ 0xF → t.reg r = s.reg r
  pc : t.pc = s.pc + 2
  frame : { t with v := s.v, fb := s.fb, pc := s.pc } = s

/-- The loop over a sprite that fits the screen puts on a pixel the sprite bit whose wrapped place it is. -/
theorem State.drawOutcome_drawSprite (s : State) (px0 py0 : Byte) (w h : Nat) (bits : Nat → Nat → Bool) (hw : w ≤ 64)
    (hh : h ≤ 32) :
    DrawOutcome s
      (fun px py => decide (spriteColumn px0 px < w ∧ spriteRow py0 py < h) &&
        bits (spriteRow py0 py) (spriteColumn px0 px))
      (s.drawSprite px0 py0 w h bits) where
  pixel := pixel_plotRows px0 py0 w bits hw s.fb h hh
  flag := s.vf_drawSprite ..
  collision := by
    rw [State.reg_drawSprite, if_pos rfl, flagByte_eq_one, collision_plotRows px0 py0 w bits hw s.fb h hh]
    simp only [Bool.and_eq_true, decide_eq_true_eq, and_assoc, and_left_comm]
  reg r hr := by rw [State.reg_drawSprite, if_neg hr]
  pc := rfl
  frame := rfl

section
variable (x y n : Nibble) (s : State)

theorem exec_drw_standard (hm : s.drawFont = false) (hi : s.i.toNat + n.toNat - 1 ≤ 0xFFF) :
    ∃ t, exec (.drw x y n) s = .next t ∧ DrawOutcome s (s.standardBit (s.reg x) (s.reg y) n.toNat) t :=
  have hn : n.toNat < 16 := n.isLt
  ⟨_, execDrw_standard_ok x y n s hm (.inr hi),
    s.drawOutcome_drawSprite (s.reg x) (s.reg y) 8 n.toNat s.spriteBits (by decide) (by omega)⟩

theorem exec_drw_font (hm : s.drawFont = true) (hi : s.i.toNat ≤ 15) :
    ∃ t, exec (.drw x y n) s = .next t ∧ DrawOutcome s (s.fontBit (s.reg x) (s.reg y)) t :=
  ⟨_, execDrw_font_ok x y n s hm hi,
    s.drawOutcome_drawSprite (s.reg x) (s.reg y) 4 5 (glyphBit (Fin.ofNat 16 s.i.toNat)) (by decide) (by decide)⟩

/-- The two modes as one: a draw the fault table admits puts the bits of the mode it executes in. -/
theorem exec_drw_of_faultTable_none (hf : faultTable s (.drw x y n) = none) :
    ∃ t, exec (.drw x y n) s = .next t ∧ DrawOutcome s (s.drawnBit x y n) t := by
  cases hm : s.drawFont
  · have hi : ¬ s.i.toNat + n.toNat - 1 > 0xFFF := fun hi => by simp [faultTable, hm, hi] at hf
    have hbit : s.drawnBit x y n = s.standardBit (s.reg x) (s.reg y) n.toNat := by
      funext px py; rw [State.drawnBit, hm, if_neg Bool.false_ne_true]
    rw [hbit]
    exact exec_drw_standard x y n s hm (Nat.not_lt.1 hi)
  · have hi : ¬ s.i.toNat > 15 := fun hi => by simp [faultTable, hm, hi] at hf
    have hbit : s.drawnBit x y n = s.fontBit (s.reg x) (s.reg y) := by
      funext px py; rw [State.drawnBit, if_pos hm]
    rw [hbit]
    exact exec_drw_font x y n s hm (Nat.not_lt.1 hi)

end

/-- Settles O46: in range the meaning is the draw of the sprite at I, else a raise. -/
theorem standardDrawXorsTheSprite : Obligations.StandardDrawXorsTheSprite := by
  intro x y n s hn hm
  refine ⟨decodeOfEncodeIsIdentity (.drw x y n) (bne_iff_ne.2 hn), fun hi => ?_,
    execDrw_standard_fault x y n s hm (BitVec.toNat_ne.1 hn)⟩
  obtain ⟨t, hexec, ht⟩ := exec_drw_standard x y n s hm hi
  exact ⟨t, hexec, ht.pixel, ht.flag, ht.collision, ht.reg, ht.pc, ht.frame⟩

/-- Settles O47: with I at most 15 the meaning is the draw of the glyph, else a raise. -/
theorem fontDrawXorsTheGlyph : Obligations.FontDrawXorsTheGlyph := by
  intro x y n s hn hm
  refine ⟨decodeOfEncodeIsIdentity (.drw x y n) (bne_iff_ne.2 hn), fun hi => ?_, execDrw_font_fault x y n s hm⟩
  obtain ⟨t, hexec, ht⟩ := exec_drw_font x y n s hm hi
  exact ⟨t, hexec, ht.pixel, ht.flag, ht.collision, ht.reg, ht.pc, ht.frame⟩

/-! ### The same draw again (R165 (c)) -/

namespace DrawOutcome
variable {s t u : State} {bit : Fin 64 → Fin 32 → Bool}

theorem i_eq (ht : DrawOutcome s bit t) : t.i = s.i := (congrArg State.i ht.frame :)

theorem drawFont_eq (ht : DrawOutcome s bit t) : t.drawFont = s.drawFont := (congrArg State.drawFont ht.frame :)

theorem mem_eq (ht : DrawOutcome s bit t) : t.mem = s.mem := (congrArg State.mem ht.frame :)

/-- A draw keeps I, the mode, Memory and every register but VF, and these are all a draw reads. -/
theorem drawnBit_eq {x y : Nibble} (ht : DrawOutcome s bit t) (n : Nibble) (hx : x ≠ 0xF) (hy : y ≠ 0xF) :
    t.drawnBit x y n = s.drawnBit x y n := by
  funext px py
  simp only [State.drawnBit, State.fontBit, State.standardBit, ht.i_eq, ht.drawFont_eq, ht.mem_eq, ht.reg x hx,
    ht.reg y hy]

theorem faultTable_eq (ht : DrawOutcome s bit t) (x y n : Nibble) :
    faultTable t (.drw x y n) = faultTable s (.drw x y n) := by
  simp only [faultTable, ht.i_eq, ht.drawFont_eq]

theorem fb_twice (ht : DrawOutcome s bit t) (hu : DrawOutcome t bit u) : u.fb = s.fb :=
  Framebuffer.ext fun px py => by rw [hu.pixel, ht.pixel, Bool.xor_assoc, Bool.xor_self, Bool.xor_false]

/-- A pixel under a bit 1 is lit after the first draw exactly when it was not before. -/
theorem collision_twice (ht : DrawOutcome s bit t) (hu : DrawOutcome t bit u) :
    u.reg 0xF = 1 ↔ ∃ px py, s.fb.pixel px py = false ∧ bit px py = true := by
  have hflip px py : (t.fb.pixel px py = true ∧ bit px py = true) ↔ (s.fb.pixel px py = false ∧ bit px py = true) :=
    and_congr_left fun hbit => by rw [ht.pixel, hbit, Bool.xor_true, Bool.not_eq_true']
  simp only [hu.collision, hflip]

end DrawOutcome

/-- Settles O48: the second draw puts the same bits, and an exclusive or with the same bit twice is none. -/
theorem drawingTwiceRestoresTheDisplay : Obligations.DrawingTwiceRestoresTheDisplay := by
  intro x y n s _ hx hy hf
  obtain ⟨t, htexec, ht⟩ := exec_drw_of_faultTable_none x y n s hf
  obtain ⟨u, huexec, hu⟩ := exec_drw_of_faultTable_none x y n t ((ht.faultTable_eq x y n).trans hf)
  rw [ht.drawnBit_eq n hx hy] at hu
  exact ⟨t, u, htexec, huexec, ht.fb_twice hu, hu.flag, ht.collision_twice hu⟩

end Sys2Proof.Machine
end

section
/-! Family 46_stubs_unknown: the eight stubs and UNKNOWN, all of which have one meaning, the advance of pc. -/

namespace Sys2Proof.Machine

/-- R180 to R189: the operand fields, and the whole word of UNKNOWN, are without effect. -/
theorem exec_stubs_unknown_advance (b1 x y n : Nibble) (op : Word) (s : State) :
    ∀ i ∈ [Instr.scd b1 n, .scr b1, .scl b1, .low b1, .high b1, .drwExt x y, .ldVxK x, .ldHfVx x, .unknown op],
      exec i s = .next s.advance := by
  intro i hi
  simp only [List.mem_cons, List.not_mem_nil, or_false] at hi
  obtain rfl | rfl | rfl | rfl | rfl | rfl | rfl | rfl | rfl := hi
  all_goals rfl

/-- Settles O49: the words are the encodings of the stubs, and no row but UNKNOWN's is left for the others. -/
theorem stubsAndUnknownOnlyAdvance : Obligations.StubsAndUnknownOnlyAdvance := fun b1 x y n op s =>
  ⟨decodeOfEncodeIsIdentity (.scd b1 n) rfl, decodeOfEncodeIsIdentity (.scr b1) rfl,
    decodeOfEncodeIsIdentity (.scl b1) rfl, decodeOfEncodeIsIdentity (.low b1) rfl,
    decodeOfEncodeIsIdentity (.high b1) rfl, decodeOfEncodeIsIdentity (.drwExt x y) rfl,
    decodeOfEncodeIsIdentity (.ldVxK x) rfl, decodeOfEncodeIsIdentity (.ldHfVx x) rfl,
    decode_of_tableId_unknown, exec_stubs_unknown_advance b1 x y n op s⟩

end Sys2Proof.Machine
end

section
/-! Families 60_exceptions and 70_reset_and_hazards: how a step runs and which fault it raises, and what the host
operations write at the boundary. -/

namespace Sys2Proof.Machine

/-! ### Key slots (R30, R211) -/

theorem State.keyAt_setKey (s : State) (k : Nibble) (pressed : Bool) (j : Nibble) :
    (s.setKey k pressed).keyAt j = if j = k then pressed else s.keyAt j := by
  simp only [State.keyAt, State.setKey, Vector.getElem_set, BitVec.toNat_inj, eq_comm (a := k)]

theorem State.keyAt_hostReset (s : State) (k : Nibble) : s.hostReset.keyAt k = false :=
  Vector.getElem_replicate ..

/-! ### Reset (R230) -/

theorem State.reg_hostReset (s : State) (r : Nibble) : s.hostReset.reg r = 0 :=
  Vector.getElem_replicate ..

theorem State.stack_hostReset (s : State) (j : Fin 16) : s.hostReset.stack[j] = 0 :=
  Vector.getElem_replicate ..

/-! ### The bytes of an image (R233) -/

/-- ROM_MAX is at most 3584, so the image's first ROM_MAX bytes end inside Memory. -/
theorem State.read_loadRom_bytes (s : State) (b : List Byte) (a : Nat) :
    (s.loadRom (.bytes b)).1.mem.read a =
      if 0x200 ≤ a ∧ a < 0x200 + min b.length Config.romMax.val then b.getD (a - 0x200) 0 else s.mem.read a := by
  have hlen : (b.take Config.romMax.val).length = min b.length Config.romMax.val := by
    rw [List.length_take, Nat.min_comm]
  have hfit : 0x200 + (b.take Config.romMax.val).length ≤ 0x1000 := by omega
  refine (Memory.read_writeBytes _ s.mem 0x200 a hfit).trans ?_
  rw [← hlen]
  split
  next h =>
    obtain ⟨_, hend⟩ := h
    rw [List.getElem_take, List.getD_eq_getElem _ _ (by omega)]
  next => rfl

/-! ### The obligations -/

/-- Settles O6: the three ways a step can go, the timers' decrement being phase 1. -/
theorem stepRunsTheFetchedInstruction : Obligations.StepRunsTheFetchedInstruction := by
  intro s
  simp only [countDown_eq]
  exact ⟨step_of_faulted s, fun hs hpc => step_of_fetchOob s hs (s.fetch_of_gt hpc),
    fun hs hpc => step_of_fetch s _ hs (s.fetch_of_le hpc)⟩

/-- Settles O9: the fetch raises its own fault; a fetched word decodes to a well-formed instruction, which completes or
raises what the table gives it, and the word is the one that the instruction encodes to. -/
theorem stepRaisesExactlyTheTableFaults : Obligations.StepRaisesExactlyTheTableFaults := by
  refine ⟨by decide, fun s hs => ?_⟩
  by_cases hpc : s.pc.toNat > 0xFFE
  · exact ⟨_, step_of_fetchOob s hs (s.fetch_of_gt hpc), fun _ => rfl, fun hle => absurd hpc (Nat.not_lt.2 hle)⟩
  · have hstep := step_of_fetch s _ hs (s.fetch_of_le (by omega))
    unfold wordOfBytes at hstep
    generalize s.mem.read s.pc.toNat ++ s.mem.read (s.pc.toNat + 1) = op at hstep ⊢
    have hexec := exec_completes_or_raises (decode op) s.tick (decode_wf op)
    simp only [faultTable_tick, encode_decode] at hexec
    obtain ⟨htable, t, hcompletes, hfault⟩ | ⟨c, a, htable, _, hraise⟩ := hexec
    · refine ⟨t, hstep.trans hcompletes, fun h => absurd h hpc, fun _ => ?_⟩
      simp only [htable]
      exact hfault
    · refine ⟨_, hstep.trans hraise, fun h => absurd h hpc, fun _ => ?_⟩
      simp only [htable]
      rfl

/-- Settles O50: the reset values of R37, whatever the state before. -/
theorem resetLeavesTheResetValues : Obligations.ResetLeavesTheResetValues := fun s =>
  ⟨s.hostReset, rfl, s.reg_hostReset, rfl, rfl, s.stack_hostReset, rfl, rfl, rfl, s.keyAt_hostReset, rfl,
    Memory.read_nil, Framebuffer.pixel_blank, rfl⟩

/-- Settles O51: the load writes Memory alone, and there the image's first bytes. -/
theorem loadRomCopiesTheImage : Obligations.LoadRomCopiesTheImage := fun s b =>
  ⟨⟨_, rfl, s.read_loadRom_bytes b, s.loadRom_frame (.bytes b)⟩, rfl⟩

/-- Settles O52: a key event is the write of one slot, and the two reads answer with the state as it is. -/
theorem keyEventAndReadsAtTheBoundary : Obligations.KeyEventAndReadsAtTheBoundary := fun s =>
  ⟨fun k p => ⟨s.setKey k p, rfl, s.keyAt_setKey k p, rfl⟩, fun _ _ => rfl, rfl⟩

end Sys2Proof.Machine
end
